-- ==== Sys2Proof/Word.lean ====
section
/-! DEFINITION. Word.lean: the word types of the block (00_scope.md R10; 20_memory.md R62). -/

namespace Sys2Proof

/-- One byte: the unit of the wire and of the frame buffer (R10, R30). -/
abbrev Byte := BitVec 8

/-- One word of the register space: the only width the host moves (R62). -/
abbrev Word := BitVec 32

end Sys2Proof
end

