-- ==== Sys2Proof/Config.lean ====
section
/-! DEFINITION. Config.lean: the parameters of the block (00_scope.md R6 to R8), the configuration of this hardware, the
reference configuration of the test vectors (R9), and the free values the spec calls draws (R17, R39, R64, R66). -/

namespace Sys2Proof

/-- One RGB colour: the fields of `CFG_FG` and `CFG_BG` (10_state.md R25, R26). -/
structure Rgb where
  r : Byte
  g : Byte
  b : Byte
deriving DecidableEq, Repr

/-- The parameters the source leaves open (R7), the glyph table `GT` (R8) and the chunk size `C`, "also carried as a
configuration field" (R7). The function level of R15 is written for any configuration; the machine runs `Config.hw`. -/
structure Config where
  /-- `CHAR_W`, the width in bits of a character code. -/
  charWidth : Nat
  /-- `G`, glyph size in bytes. -/
  glyphSize : Nat
  /-- `C`, the largest slice of the frame carried by one chunk. -/
  chunkSize : Nat
  /-- `SPACE`, the code of the space character: below 2^CHAR_W by its type. -/
  space : BitVec charWidth
  /-- `DEF_MODE`, reset value of the display-mode byte. -/
  defMode : Byte
  /-- `DEF_SPEED`, reset value of the speed byte. -/
  defSpeed : Byte
  /-- `DEF_COLORMODE`, reset value of the colour-mode byte. -/
  defColorMode : Byte
  /-- `DEF_BGMODE`, reset value of the background-mode byte. -/
  defBgMode : Byte
  /-- `DEF_BG`, reset value of the background colour. -/
  defBg : Rgb
  /-- `GT`, the glyph table: a partial function from codes to glyphs (R8, R71). -/
  glyphTable : BitVec charWidth → Option (List Byte)

/-- A character code of the configuration, an unsigned number below 2^CHAR_W (R7, R8). -/
abbrev Config.Code (cfg : Config) := BitVec cfg.charWidth

/-- `COLLEN` = 4 + 2·G, bytes per column (R7). -/
def Config.colLen (cfg : Config) : Nat := 4 + 2 * cfg.glyphSize

/-- `FB_SIZE` = 14 + 255·COLLEN, the frame buffer's capacity in bytes (R7). -/
def Config.fbSize (cfg : Config) : Nat := 14 + 255 * cfg.colLen

/-- `NMAX` = 255, the largest column count (R6). -/
abbrev Config.nMax : Nat := 255

/-- `LINE_DEPTH` = NMAX, the entries of each line buffer (R7). -/
abbrev Config.lineDepth : Nat := 255

/-- `DEF_FG` = (255, 255, 0), reset value of the foreground colour (R6, R25). -/
def Config.defFg : Rgb := ⟨0xFF, 0xFF, 0x00⟩

/-! ## Parameters whose value is OPEN (R7): nothing is known of them. Log entry 1. -/

/-- `DEF_MODE` of this hardware: OPEN. -/
opaque Config.openMode : Byte
/-- `DEF_SPEED` of this hardware: OPEN. -/
opaque Config.openSpeed : Byte
/-- `DEF_COLORMODE` of this hardware: OPEN. -/
opaque Config.openColorMode : Byte
/-- `DEF_BGMODE` of this hardware: OPEN. -/
opaque Config.openBgMode : Byte
/-- The red byte of `DEF_BG` of this hardware: OPEN. -/
opaque Config.openBgR : Byte
/-- The green byte of `DEF_BG` of this hardware: OPEN. -/
opaque Config.openBgG : Byte
/-- The blue byte of `DEF_BG` of this hardware: OPEN. -/
opaque Config.openBgB : Byte
/-- The platform's glyph for `SPACE`, which R8 makes the platform provide: 8 bytes, OPEN. -/
opaque Config.openSpaceGlyph : Vector Byte 8
/-- The platform's glyphs for every other code, each of 8 bytes where there is one: OPEN. -/
opaque Config.openGlyphs : BitVec 21 → Option (Vector Byte 8)

/-- The configuration of this hardware: `CHAR_W` = 21, `G` = 8, `C` = 4096, `SPACE` = 0x20 (R6, R7); the `DEF_` bytes
and `GT` OPEN.
`GT(SPACE)` is defined and every glyph has `G` bytes, whatever the open tables hold (R8, R132); log entry 2. -/
def Config.hw : Config where
  charWidth := 21
  glyphSize := 8
  chunkSize := 4096
  space := 0x20
  defMode := Config.openMode
  defSpeed := Config.openSpeed
  defColorMode := Config.openColorMode
  defBgMode := Config.openBgMode
  defBg := ⟨Config.openBgR, Config.openBgG, Config.openBgB⟩
  glyphTable := fun c =>
    if c = 0x20 then some Config.openSpaceGlyph.toList
    else (Config.openGlyphs c).map Vector.toList

/-- A character code of this hardware: what a cell of `LINE1` or `LINE2` holds (R23). -/
abbrev Code := Config.hw.Code

/-! ## The reference configuration of the test vectors (R9) -/

/-- `TESTGT`: for 0x20 ≤ c ≤ 0x7E the 8 bytes `(c + j) mod 256`, undefined for every other code (R9). "A test fixture, not
the device's font". -/
def Config.testGlyphs (c : BitVec 21) : Option (List Byte) :=
  if 0x20 ≤ c.toNat ∧ c.toNat ≤ 0x7E then some ((List.range 8).map fun j => BitVec.ofNat 8 (c.toNat + j)) else none

/-- `REFCFG`, "used only by 95_test_vectors.md" (R9): its `DEF_` values "must not be read as
the device's defaults". The machine does not run it. -/
def Config.reference : Config where
  charWidth := 21
  glyphSize := 8
  chunkSize := 4096
  space := 0x20
  defMode := 0x00
  defSpeed := 0x5F
  defColorMode := 0x01
  defBgMode := 0x00
  defBg := ⟨0, 0, 0⟩
  glyphTable := Config.testGlyphs

/-! ## Draws (R17: "a value the model must let be anything"). Log entry 3.
Each is applied to the state's draw counter, so that two reads need not agree (R64, R66). -/

/-- The value a busy read of `FB`, `FLEN`, `CRC` or `NCHUNK` returns: "any 32-bit value" (R66). -/
opaque Config.drawWord : Nat → Word
/-- The code found in unwritten cell `i` of line buffer `line` (1 or 2) at draw time `n`: `drawCode n line i` (R39, U1). -/
opaque Config.drawCode : Nat → Nat → Nat → Config.hw.Code
/-- The byte found in unwritten cell `j` of `FB` at draw time `n`: `drawByte n j` (R39, U1). -/
opaque Config.drawByte : Nat → Nat → Byte

end Sys2Proof
end

