-- ==== Sys2Proof/Syntax.lean ====
section
/-! DEFINITION. Syntax.lean: the commands of the block, one constructor per row of spec/opcode_table.json
(30_encoding.md R92). A command word has no operand fields and no immediates (R91), so no constructor has an argument. -/

namespace Sys2Proof

/-- The six commands of the table of R92. -/
inductive Instr where
  /-- `NOP`, `OPC` 0x00 (R227). -/
  | nop
  /-- `BUILD`, `OPC` 0x01 (R156). -/
  | build
  /-- `CRC`, `OPC` 0x02 (R176). -/
  | crc
  /-- `CHUNK`, `OPC` 0x03 (R196). -/
  | chunk
  /-- `ENCODE`, `OPC` 0x04 (R229). -/
  | encode
  /-- `CLEAR`, `OPC` 0x05 (R228). -/
  | clear
deriving DecidableEq, Repr

end Sys2Proof
end

