-- ==== Sys2Proof/WellFormed.lean ====
section
/-! DEFINITION. WellFormed.lean: what may be run: every command of R92 (no command has an operand, R91), and the
configurations the spec admits (00_scope.md R7, R8; 44_chunk_splitter.md R198; 93_implementation_defined.md U4, U5). -/

namespace Sys2Proof

/-- A command is well formed whatever it is: R91 gives it no operand that could be out of range. -/
def Instr.wellFormed : Instr → Bool
  | .nop => true
  | .build => true
  | .crc => true
  | .chunk => true
  | .encode => true
  | .clear => true

/-- A configuration inside the spec; any other "the model must refuse" (R8, R198, U4, U5). The constraint
`SPACE` < 2^CHAR_W (R7, U5) is the type of `Config.space`. -/
structure Config.WellFormed (cfg : Config) : Prop where
  /-- 6 ≤ CHAR_W (R7). -/
  charWidth_ge : 6 ≤ cfg.charWidth
  /-- CHAR_W ≤ 32 (R7). -/
  charWidth_le : cfg.charWidth ≤ 32
  /-- 1 ≤ G (R7). -/
  glyphSize_pos : 1 ≤ cfg.glyphSize
  /-- G ≤ 65535 (R7). -/
  glyphSize_le : cfg.glyphSize ≤ 65535
  /-- 1 ≤ C (R198). -/
  chunkSize_pos : 1 ≤ cfg.chunkSize
  /-- C ≤ 65519, so that `len(slice) + 16` fits its two bytes (R198). -/
  chunkSize_le : cfg.chunkSize ≤ 65519
  /-- `FB_SIZE` < 2^32, so that L fits its four bytes (R198). -/
  fbSize_lt : cfg.fbSize < 2 ^ 32
  /-- `GT(SPACE)` is defined (R8). -/
  space_defined : (cfg.glyphTable cfg.space).isSome = true
  /-- Every glyph is "a sequence of exactly `G` bytes" (R8, R132). -/
  glyph_length : ∀ c g, cfg.glyphTable c = some g → g.length = cfg.glyphSize

end Sys2Proof
end

