-- ==== Sys2Proof/Decode.lean ====
section
/-! DEFINITION. Decode.lean: the command word (30_encoding.md R90 to R93): a total decoder that rejects by name, and
after it the encoder. The register space has no byte order (20_memory.md R68), so a command is one 32-bit word. -/

namespace Sys2Proof

/-- Why a word is no command (R93). -/
inductive DecodeError where
  /-- `ZERO`, bits 31:8, is not 0. -/
  | nonzeroHighBits (high : BitVec 24)
  /-- Bits 31:8 are 0 and `OPC` is one of the reserved codes 0x06 to 0xFF. -/
  | reservedCode (opc : BitVec 8)
deriving DecidableEq, Repr

/-- `OPC`, bits 7:0 of the command word (R90). -/
def opcField (v : Word) : BitVec 8 := v.extractLsb' 0 8

/-- `ZERO`, bits 31:8 of the command word (R90). -/
def zeroField (v : Word) : BitVec 24 := v.extractLsb' 8 24

/-- The table of R92, by operation code. -/
def opcTable : List (BitVec 8 × Instr) :=
  [(0x00, .nop), (0x01, .build), (0x02, .crc), (0x03, .chunk), (0x04, .encode), (0x05, .clear)]

/-- "if `v[31:8]` ≠ 0 then illegal; else look `v[7:0]` up in this table" (R92, R220). -/
def decode (v : Word) : Except DecodeError Instr :=
  if zeroField v ≠ 0 then .error (.nonzeroHighBits (zeroField v))
  else
    match opcTable.lookup (opcField v) with
    | some i => .ok i
    | none => .error (.reservedCode (opcField v))

/-- The operation code of a command (R92). -/
def Instr.opc : Instr → BitVec 8
  | .nop => 0x00
  | .build => 0x01
  | .crc => 0x02
  | .chunk => 0x03
  | .encode => 0x04
  | .clear => 0x05

/-- The word of a command: `ZERO` = 0 above its `OPC` (R90, R92). -/
def encode (i : Instr) : Word := (0 : BitVec 24) ++ i.opc

/-- The instruction of a row of spec/opcode_table.json whose `nbits` bits are `w` (bit 0 the least significant). -/
def decodeTableWord (nbits w : Nat) : Option Instr :=
  if w % 2 ^ nbits < 2 ^ 32 then (decode (BitVec.ofNat 32 (w % 2 ^ nbits))).toOption else none

end Sys2Proof
end

