-- ==== Sys2Proof/Machine/State.lean ====
section
/-! DEFINITION. Machine/State.lean: the state of the block as plain data (10_state.md R20 to R38), the events of its
environment (00_scope.md R5, R37), and the state after reset (R38). -/

namespace Sys2Proof.Machine

/-- `PHASE` of the sequencer (R34). -/
inductive Phase where
  /-- No command running. -/
  | idle
  /-- A command is accepted and its computation is pending. -/
  | exec
  /-- Buffer `K` is being sent, byte `POS` is on offer. -/
  | emit
  /-- Buffer `K` is fully sent and the transport's answer is awaited. -/
  | resp
deriving DecidableEq, Repr

/-- `OP` of the sequencer: the command being run (R34). -/
inductive Op where
  | build
  | crc
  | chunk
  | encode
deriving DecidableEq, Repr

/-- The fields of `STATUS` (R27); bits 31:8 read as 0. -/
structure Status where
  /-- Bit 0, `BUSY`. -/
  busy : Bool
  /-- Bit 1, `DONE`. -/
  done : Bool
  /-- Bit 2, `ERR`. -/
  err : Bool
  /-- Bit 3, `WERR`. -/
  werr : Bool
  /-- Bits 7:4, `ERRCODE`. -/
  errCode : BitVec 4
deriving DecidableEq, Repr

/-- The fields of `CFG0` (R24). -/
structure Cfg0 where
  /-- Bits 7:0, `MODE`. -/
  mode : Byte
  /-- Bits 15:8, `SPEED`. -/
  speed : Byte
  /-- Bits 23:16, `COLORMODE`. -/
  colorMode : Byte
  /-- Bits 31:24, `BGMODE`. -/
  bgMode : Byte
deriving DecidableEq, Repr

/-- The four errors of R250, each with the info that `ERRINFO` records. -/
inductive CmdError where
  /-- Code 1: the column count N. -/
  | capacityExceeded (n : Nat)
  /-- Code 2: the index K of the buffer the transport refused. -/
  | transportError (k : Nat)
  /-- Code 3: the word written. -/
  | illegalCommand (v : Word)
  /-- Code 4: `FLEN`. -/
  | frameRange (flen : Word)
deriving DecidableEq, Repr

/-- One beat of the transport stream: a byte and the end-of-buffer mark (R72). -/
structure Beat where
  data : Byte
  last : Bool
deriving DecidableEq, Repr

/-- One move of an agent (R5). The environment's moves come in the one total order of R73. -/
inductive Event where
  /-- `HostRead(off)` of an access width in bits (R62; only 32 has a meaning, R67). -/
  | hostRead (width off : Nat)
  /-- `HostWrite(off, v)` of an access width in bits (R62, R67). -/
  | hostWrite (width off : Nat) (v : Word)
  /-- The sequencer takes its turn: its `EXEC` step, where one is pending (R222). -/
  | sequencer
  /-- The transport drives `tx_ready`, `resp_valid` and `resp_ok` (R200). -/
  | transport (txReady respValid respOk : Bool)
  /-- The reset event (R280). -/
  | reset
deriving DecidableEq, Repr

/-- The state. The first fields are the spec's; the last four are the model's own: the environment's pending moves and
what the environment has received (log entries 4 to 6), and the draw counter (log entry 3). -/
structure State where
  /-- `STATUS` (R27). -/
  status : Status
  /-- `ERRINFO` (R28). -/
  errInfo : Word
  /-- `LEN1` (R21). -/
  len1 : Word
  /-- `LEN2` (R22). -/
  len2 : Word
  /-- `LINE1[0..254]` (R23): the written cells, by rising index; a cell not listed is unwritten (R39). -/
  line1 : List (Nat × Code)
  /-- `LINE2[0..254]` (R23). -/
  line2 : List (Nat × Code)
  /-- `CFG0` (R24). -/
  cfg0 : Cfg0
  /-- `CFG_FG` (R25). -/
  cfgFg : Rgb
  /-- `CFG_BG` (R26). -/
  cfgBg : Rgb
  /-- `FLEN` (R29). -/
  flen : Word
  /-- `FB[0..FB_SIZE-1]` (R30): the written cells, by rising index; a cell not listed is unwritten (R39). -/
  fb : List Host.Cell
  /-- `CRC` (R31). -/
  crc : Word
  /-- `NCHUNK` (R32). -/
  nchunk : Word
  /-- `PHASE` (R34). -/
  phase : Phase
  /-- `OP` (R34). -/
  op : Op
  /-- `K` (R34): index of the current chunk. -/
  k : Nat
  /-- `POS` (R34): index of the byte on offer within buffer `K`. -/
  pos : Nat
  /-- Model's own: the moves of the host, the sequencer, the transport and reset still to come, next first (R73). -/
  agenda : List Event
  /-- Model's own: the values the block returned to `HostRead`, first read first (R62). -/
  reads : List Word
  /-- Model's own: the beats the transport has received, first beat first (R72). -/
  received : List Beat
  /-- Model's own: the draw time, the argument of the free values of Config. -/
  draws : Nat
deriving DecidableEq, Repr

/-- Why the machine stops with a fault: it never does. The faults of the spec are its four errors, `CmdError`, after which
the block goes on (R256, R259); what has no meaning is refused (R67). -/
inductive Fault : Type
deriving DecidableEq, Repr

/-- Why the model gives a step no meaning. -/
inductive Refusal where
  /-- Raised by an arm of exec whose instruction has no meaning yet. Safe. -/
  | notModelled (mnemonic : String)
  /-- Raised by a host access at an offset that is not a multiple of 4 (R67). Safe. -/
  | misalignedOffset (off : Nat)
  /-- Raised by a host access of a width other than 32 bits (R62, R67). Safe. -/
  | accessWidth (width : Nat)
  /-- Raised by a host access at an offset that is a multiple of 4 and lies outside the map of R61 (R67). Safe. -/
  | unmappedOffset (off : Nat)
deriving DecidableEq, Repr

/-- The outcomes of a step of the block. -/
abbrev Result := Host.Outcome State Fault Refusal

/-- The state after reset (R38). `OP`, `K` and `POS` are "unspecified; not meaningful in `IDLE`": log entry 7. -/
def State.reset : State where
  status := ⟨false, false, false, false, 0⟩
  errInfo := 0
  len1 := 0
  len2 := 0
  line1 := []
  line2 := []
  cfg0 := ⟨Config.hw.defMode, Config.hw.defSpeed, Config.hw.defColorMode, Config.hw.defBgMode⟩
  cfgFg := Config.defFg
  cfgBg := Config.hw.defBg
  flen := 0
  fb := []
  crc := 0
  nchunk := 0
  phase := .idle
  op := .build
  k := 0
  pos := 0
  agenda := []
  reads := []
  received := []
  draws := 0

end Sys2Proof.Machine
end

