-- ==== Sys2Proof/Machine/AddressMap.lean ====
section
/-! DEFINITION. Machine/AddressMap.lean: the register space (20_memory.md R61). -/

namespace Sys2Proof.Machine

/-- What a mapped offset names (R61). -/
inductive Target where
  | cmd
  | status
  | len1
  | len2
  | cfg0
  | cfgFg
  | cfgBg
  | flen
  | crc
  | nchunk
  | errInfo
  /-- `LINE1[i]`, 0 ≤ i ≤ 254. -/
  | line1 (i : Nat)
  /-- `LINE2[i]`, 0 ≤ i ≤ 254. -/
  | line2 (i : Nat)
  /-- `FB[j]`, 0 ≤ j < FB_SIZE. -/
  | fb (j : Nat)
deriving DecidableEq, Repr

/-- The registers' offsets (R61). -/
def registerAt : Nat → Option Target
  | 0x00 => some .cmd
  | 0x04 => some .status
  | 0x08 => some .len1
  | 0x0C => some .len2
  | 0x10 => some .cfg0
  | 0x14 => some .cfgFg
  | 0x18 => some .cfgBg
  | 0x1C => some .flen
  | 0x20 => some .crc
  | 0x24 => some .nchunk
  | 0x28 => some .errInfo
  | _ => none

/-- The map of R61, for an offset that is a multiple of 4: none where the offset is unmapped. -/
def targetAt (off : Nat) : Option Target :=
  if off < 0x400 then registerAt off
  else if off < 0x400 + 4 * Config.lineDepth then some (.line1 ((off - 0x400) / 4))
  else if off < 0x800 then none
  else if off < 0x800 + 4 * Config.lineDepth then some (.line2 ((off - 0x800) / 4))
  else if off < 0x10000 then none
  else if off < 0x10000 + 4 * Config.hw.fbSize then some (.fb ((off - 0x10000) / 4))
  else none

/-- The offset of a target: `LINE1[i]` at 0x400 + 4·i, `LINE2[i]` at 0x800 + 4·i, `FB[j]` at 0x10000 + 4·j (R61). -/
def Target.offset : Target → Nat
  | .cmd => 0x00
  | .status => 0x04
  | .len1 => 0x08
  | .len2 => 0x0C
  | .cfg0 => 0x10
  | .cfgFg => 0x14
  | .cfgBg => 0x18
  | .flen => 0x1C
  | .crc => 0x20
  | .nchunk => 0x24
  | .errInfo => 0x28
  | .line1 i => 0x400 + 4 * i
  | .line2 i => 0x800 + 4 * i
  | .fb j => 0x10000 + 4 * j

/-- The cell or register exists (R61). -/
def Target.exists? : Target → Bool
  | .line1 i => decide (i < Config.lineDepth)
  | .line2 i => decide (i < Config.lineDepth)
  | .fb j => decide (j < Config.hw.fbSize)
  | .cmd => true
  | .status => true
  | .len1 => true
  | .len2 => true
  | .cfg0 => true
  | .cfgFg => true
  | .cfgBg => true
  | .flen => true
  | .crc => true
  | .nchunk => true
  | .errInfo => true

end Sys2Proof.Machine
end

