-- ==== Sys2Proof/Machine/Flags.lean ====
section
/-! DEFINITION. Machine/Flags.lean: every computation of the flags of `STATUS` (10_state.md R27) and the codes and infos
of the four errors (60_exceptions.md R250). -/

namespace Sys2Proof.Machine

/-- The value of `STATUS.ERRCODE` for an error (R250). -/
def CmdError.code : CmdError → BitVec 4
  | .capacityExceeded _ => 1
  | .transportError _ => 2
  | .illegalCommand _ => 3
  | .frameRange _ => 4

/-- The value of `ERRINFO` for an error (R250). -/
def CmdError.info : CmdError → Word
  | .capacityExceeded n => BitVec.ofNat 32 n
  | .transportError k => BitVec.ofNat 32 k
  | .illegalCommand v => v
  | .frameRange flen => flen

/-- `STATUS` at acceptance: `WERR` is not changed (R221). -/
def Status.accepted (st : Status) : Status :=
  { st with busy := true, done := false, err := false, errCode := 0 }

/-- `STATUS` at a good end: `ERR` and `ERRCODE` are not written, they "are already 0" (R225). -/
def Status.goodEnd (st : Status) : Status := { st with busy := false, done := true }

/-- `STATUS` at a raise: `WERR` is untouched (R256). -/
def Status.raised (e : CmdError) (st : Status) : Status :=
  { st with busy := false, done := false, err := true, errCode := e.code }

/-- `STATUS` after CLEAR: `BUSY` is not written (R228). -/
def Status.cleared (st : Status) : Status :=
  { st with done := false, err := false, errCode := 0, werr := false }

/-- `STATUS` after a dropped write (R65). -/
def Status.writeDropped (st : Status) : Status := { st with werr := true }

end Sys2Proof.Machine
end

