-- ==== Sys2Proof/Machine/Wire.lean ====
section
/-! DEFINITION. Machine/Wire.lean: the notation of sequences and bytes (00_scope.md R11 to R13), the constant bytes of
the wire records (R6), and the fields of the register words (10_state.md R24 to R27). -/

namespace Sys2Proof.Machine

/-- `le16(v)` = `[v[7:0], v[15:8]]` (R12). -/
def le16 (v : BitVec 16) : List Byte := [v.extractLsb' 0 8, v.extractLsb' 8 8]

/-- `le32(v)` = `[v[7:0], v[15:8], v[23:16], v[31:24]]` (R12). -/
def le32 (v : Word) : List Byte :=
  [v.extractLsb' 0 8, v.extractLsb' 8 8, v.extractLsb' 16 8, v.extractLsb' 24 8]

/-- `s[a:b]`: the elements with index i, a ≤ i < b (R11). -/
def seqSlice {α : Type} (s : List α) (a b : Nat) : List α := (s.take b).drop a

/-- `ceil(a / b)` for b ≥ 1: the least q with q·b ≥ a (R13). -/
def ceilDiv (a b : Nat) : Nat := (a + b - 1) / b

/-- `COLHDR`, the per-column header (R6, R94). -/
def colHdr : List Byte := [0x02, 0xFF, 0xFF, 0xFF]

/-- `TAG`, chunk header bytes 2 and 3 (R6, R98). -/
def chunkTag : List Byte := [0x03, 0x00]

/-- `TRAILER`, chunk header bytes 13 to 15 (R6, R98). -/
def chunkTrailer : List Byte := [0x00, 0x00, 0x0C]

/-- `HDRLEN`, the chunk header's length (R6). -/
def hdrLen : Nat := 16

/-- `STATUS` as a word: BUSY bit 0, DONE bit 1, ERR bit 2, WERR bit 3, ERRCODE bits 7:4, the rest 0 (R27). -/
def statusWord (st : Status) : Word :=
  (0 : BitVec 24) ++ st.errCode ++ BitVec.ofBool st.werr ++ BitVec.ofBool st.err ++ BitVec.ofBool st.done
    ++ BitVec.ofBool st.busy

/-- `CFG0` as a word (R24). -/
def cfg0Word (c : Cfg0) : Word := c.bgMode ++ c.colorMode ++ c.speed ++ c.mode

/-- The fields a write of `v` gives `CFG0` (R63). -/
def cfg0OfWord (v : Word) : Cfg0 :=
  ⟨v.extractLsb' 0 8, v.extractLsb' 8 8, v.extractLsb' 16 8, v.extractLsb' 24 8⟩

/-- `CFG_FG` or `CFG_BG` as a word: bits 31:24 read as 0 (R25, R26). -/
def rgbWord (c : Rgb) : Word := (0 : BitVec 8) ++ c.b ++ c.g ++ c.r

/-- The fields a write of `v` gives `CFG_FG` or `CFG_BG`; `v[31:24]` is ignored (R63). -/
def rgbOfWord (v : Word) : Rgb := ⟨v.extractLsb' 0 8, v.extractLsb' 8 8, v.extractLsb' 16 8⟩

/-- What a line cell takes of a written word: `v[CHAR_W-1:0]` (R63). -/
def codeOfWord (v : Word) : Code := v.extractLsb' 0 Config.hw.charWidth

/-- What an `FB` cell takes of a written word: `v[7:0]` (R63). -/
def byteOfWord (v : Word) : Byte := v.extractLsb' 0 8

end Sys2Proof.Machine
end

