-- ==== Sys2Proof/Machine/Ops.lean ====
section
/-! DEFINITION. Machine/Ops.lean: the operations the commands share: the cells of the buffers (10_state.md R23, R30,
R39), the entry of an error (60_exceptions.md R256), acceptance and the good end of a command (45_host_commands.md R221,
R225), and the start of an emission (44_chunk_splitter.md R197). There is no return from an error, "because nothing was
entered" (R259). -/

namespace Sys2Proof.Machine

/-! ## Buffers: written cells in one canonical form of the model's own, by strictly rising index (log entry 13); a cell not
listed is unwritten (R39) -/

/-- The value of cell `j`, or none where it is unwritten (R39). -/
def Memory.read {α : Type} : List (Nat × α) → Nat → Option α
  | [], _ => none
  | (i, x) :: m, j => if i = j then some x else Memory.read m j

/-- The cells `a`, `a + 1`, … holding the elements of a sequence. -/
def Memory.cellsFrom {α : Type} (a : Nat) : List α → List (Nat × α)
  | [] => []
  | x :: xs => (a, x) :: Memory.cellsFrom (a + 1) xs

/-- `BUF[a : a + len(s)] <- s` (R14): those cells become written, every other cell stays as it was. -/
def Memory.writeRange {α : Type} (a : Nat) (s : List α) (m : List (Nat × α)) : List (Nat × α) :=
  m.filter (fun c => decide (c.1 < a)) ++ Memory.cellsFrom a s
    ++ m.filter (fun c => decide (a + s.length ≤ c.1))

/-- `BUF[j] <- x`. -/
def Memory.write {α : Type} (j : Nat) (x : α) (m : List (Nat × α)) : List (Nat × α) :=
  Memory.writeRange j [x] m

/-- The canonical form of a buffer of `size` cells: indices strictly rising and below `size`. An unwritten cell has no
value, so no listed cell can hold what an unlisted one reads as. -/
abbrev Memory.wf {α : Type} (size : Nat) (m : List (Nat × α)) : Prop :=
  m.Pairwise (fun c d => c.1 < d.1) ∧ ∀ c ∈ m, c.1 < size

/-! ## Command entry and ends -/

/-- The command that an accepted `OP` runs (R34). -/
def Op.instr : Op → Instr
  | .build => .build
  | .crc => .crc
  | .chunk => .chunk
  | .encode => .encode

/-- Acceptance of a command (R221). -/
def accept (op : Op) (s : State) : State :=
  { s with status := s.status.accepted, errInfo := 0, op := op, phase := .exec }

/-- The good end of a command (R225). -/
def goodEnd (s : State) : State := { s with status := s.status.goodEnd, phase := .idle }

/-- The entry of an error, `raise E(info)` (R256): the one place where the block takes an error. -/
def raise (e : CmdError) (s : State) : State :=
  { s with status := s.status.raised e, errInfo := e.info, phase := .idle }

/-- `EMIT_START` (R197). -/
def emitStart (s : State) : State := { s with nchunk := 0, k := 0, pos := 0, phase := .emit }

/-- The part of CLEAR that is written (R228). -/
def clearStatus (s : State) : State := { s with status := s.status.cleared, errInfo := 0 }

/-- A host write made while `BUSY` = 1: "Its one effect is `STATUS.WERR <- 1`" (R65). -/
def dropWrite (s : State) : State := { s with status := s.status.writeDropped }

/-- The draw counter after a step in which an unwritten cell may have been read (log entry 3). -/
def tick (s : State) : State := { s with draws := s.draws + 1 }

/-- `FB[0:len(f)] <- f; FLEN <- len(f)` (R156). -/
def storeFrame (f : List Byte) (s : State) : State :=
  { s with fb := Memory.writeRange 0 f s.fb, flen := BitVec.ofNat 32 f.length }

/-- The reset event (R280, R38): every piece of the block's state takes its reset value. The environment's part of the
state stays: what the transport has received is not taken back (R281). -/
def resetBlock (s : State) : State :=
  { State.reset with agenda := s.agenda, reads := s.reads, received := s.received, draws := s.draws }

/-- A command's meaning by the sequencer's phase: it is accepted in `IDLE` (R221), its computation is the one atomic
`EXEC` step (R222), and in `EMIT` and `RESP` the sequencer waits for the transport (R205): R223 has no other row. -/
def runCommand (op : Op) (body : State → State) (s : State) : State :=
  match s.phase with
  | .idle => accept op s
  | .exec => body s
  | .emit => s
  | .resp => s

end Sys2Proof.Machine
end

