-- ==== Sys2Proof/Machine/Control.lean ====
section
/-! DEFINITION. Machine/Control.lean: the commands NOP and CLEAR (45_host_commands.md R227, R228). Neither is accepted
into the sequencer: each acts in the step of its `CMD` write (R220, R223). -/

namespace Sys2Proof.Machine

/-- `NOP` (R227): "nothing". -/
def execNop (s : State) : Result := .next s

/-- `CLEAR` (R228). -/
def execClear (s : State) : Result := .next (clearStatus s)

end Sys2Proof.Machine
end

