-- ==== Sys2Proof/Machine/Operands.lean ====
section
/-! DEFINITION. Machine/Operands.lean: the operands a command reads (30_encoding.md R91): the lines, the frame in `FB`,
the two lengths with the capacity check (42_frame_assembler.md R150) and the frame-length check (43_checksum.md R175). -/

namespace Sys2Proof.Machine

/-- The code a command or the host reads in cell `i` of a line buffer: a draw where the cell is unwritten (R39, R64). -/
def lineCode (line : Nat) (buf : List (Nat × Code)) (draws i : Nat) : Code :=
  (Memory.read buf i).getD (Config.drawCode draws line i)

/-- The byte a command or the host reads in cell `j` of `FB`: a draw where the cell is unwritten (R39, R64). -/
def fbByte (s : State) (j : Nat) : Byte := (Memory.read s.fb j).getD (Config.drawByte s.draws j)

/-- The operand `LINE1[0:LEN1]` (R145). -/
def line1Operand (s : State) : List Code := (List.range s.len1.toNat).map (lineCode 1 s.line1 s.draws)

/-- The operand `LINE2[0:LEN2]` (R145). -/
def line2Operand (s : State) : List Code := (List.range s.len2.toNat).map (lineCode 2 s.line2 s.draws)

/-- The operand `FB[0:FLEN]`, the frame (R29, R195). -/
def frameOperand (s : State) : List Byte := (List.range s.flen.toNat).map (fbByte s)

/-- `COLCOUNT` on the lengths of the two lines (R150): the column count N, or CapacityExceeded(N). -/
def colCount (len1 len2 : Nat) : Except CmdError Nat :=
  if Config.nMax < max len1 len2 then .error (.capacityExceeded (max len1 len2)) else .ok (max len1 len2)

/-- `CHECKFLEN` (R175): FrameRange(FLEN), or the length. -/
def checkFlen (flen : Word) : Except CmdError Nat :=
  if Config.hw.fbSize < flen.toNat then .error (.frameRange flen) else .ok flen.toNat

end Sys2Proof.Machine
end

