-- ==== Sys2Proof/Machine/Glyph.lean ====
section
/-! DEFINITION. Machine/Glyph.lean: the glyph lookup (40_glyph_lookup.md R130) and the bitmap-column interleaver
(41_column_interleaver.md R140 to R142), at the function level of 00_scope.md R15. -/

namespace Sys2Proof.Machine

/-- `LOOKUP(c)` (R130). The last arm is empty only where the configuration is not well formed, which R8 excludes. -/
def lookup (cfg : Config) (c : cfg.Code) : List Byte :=
  match cfg.glyphTable c with
  | some g => g
  | none => (cfg.glyphTable cfg.space).getD []

/-- `CHARAT(line, i)` (R140): past the line's end, the space character. -/
def charAt (cfg : Config) (line : List cfg.Code) (i : Nat) : cfg.Code := line.getD i cfg.space

/-- `COLUMN(line1, line2, i)` (R141; layout R94). -/
def column (cfg : Config) (line1 line2 : List cfg.Code) (i : Nat) : List Byte :=
  colHdr ++ lookup cfg (charAt cfg line1 i) ++ lookup cfg (charAt cfg line2 i)

/-- `ASSEMBLE(line1, line2)` (R142). -/
def assemble (cfg : Config) (line1 line2 : List cfg.Code) : List Byte :=
  (List.range (max line1.length line2.length)).flatMap (column cfg line1 line2)

end Sys2Proof.Machine
end

