-- ==== Sys2Proof/Machine/Frame.lean ====
section
/-! DEFINITION. Machine/Frame.lean: the text-frame assembler (42_frame_assembler.md R152, R154, R155) and the command BUILD
(R156). -/

namespace Sys2Proof.Machine

/-- `TEXTHDR(N, cfg)` (R152; layout R95): byte 0 is N for N ≤ 255, bytes 1 to 3 are `00 00 01`. -/
def textHdr (n : Nat) (c : Cfg0) (fg bg : Rgb) : List Byte :=
  [BitVec.ofNat 8 n, 0x00, 0x00, 0x01, c.mode, c.speed, c.colorMode, fg.r, fg.g, fg.b, c.bgMode, bg.r, bg.g, bg.b]

/-- `BUILDFRAME(line1, line2, cfg)` (R154): the logical frame, or CapacityExceeded. -/
def buildFrame (cfg : Config) (c : Cfg0) (fg bg : Rgb) (line1 line2 : List cfg.Code) : Except CmdError (List Byte) :=
  match colCount line1.length line2.length with
  | .error e => .error e
  | .ok n => .ok (textHdr n c fg bg ++ assemble cfg line1 line2)

/-- The length law: the bytes of a frame of `n` columns, 14 + N·(4 + 2·G), "a function of N alone" (R155). `length_frame` of
Laws/Functions.lean proves it of every frame. -/
def frameLen (cfg : Config) (n : Nat) : Nat := 14 + n * (4 + 2 * cfg.glyphSize)

/-- The frame the machine composes of its operands once the capacity check has given N (R156, R145). -/
def composeFrame (n : Nat) (s : State) : List Byte :=
  textHdr n s.cfg0 s.cfgFg s.cfgBg ++ assemble Config.hw (line1Operand s) (line2Operand s)

/-- `EXEC_BUILD` (R156): the check is on the length registers and comes before any other work (R150 (d), (e)). -/
def buildBody (s : State) : State :=
  match colCount s.len1.toNat s.len2.toNat with
  | .error e => raise e s
  | .ok n => goodEnd (tick (storeFrame (composeFrame n s) s))

/-- `BUILD` (R156). -/
def execBuild (s : State) : Result := .next (runCommand .build buildBody s)

end Sys2Proof.Machine
end

