-- ==== Sys2Proof/Machine/Checksum.lean ====
section
/-! DEFINITION. Machine/Checksum.lean: the checksum engine (43_checksum.md R170, R171) and the command CRC (R176).
The numbers of CRC-32 are the spec's, which marks them as general knowledge (93_implementation_defined.md G1). -/

namespace Sys2Proof.Machine

/-- One shift step of `CRCBYTE` (R170). -/
def crcShift (r : Word) : Word := if r.getLsbD 0 then (r >>> 1) ^^^ 0xEDB88320#32 else r >>> 1

/-- `t` shift steps. -/
def crcShifts : Nat → Word → Word
  | 0, r => r
  | t + 1, r => crcShifts t (crcShift r)

/-- `CRCBYTE(r, b)`: b lands in bits 7:0, then eight shift steps (R170). -/
def crcByte (r : Word) (b : Byte) : Word := crcShifts 8 (r ^^^ b.setWidth 32)

/-- `CRC32(s)` (R170). -/
def crc32 (s : List Byte) : Word := s.foldl crcByte 0xFFFFFFFF#32 ^^^ 0xFFFFFFFF#32

/-- The table `T[n]` of the table form: eight shift steps applied to n (R171). -/
def crcTable (n : Byte) : Word := crcShifts 8 (n.setWidth 32)

/-- `EXEC_CRC` (R176). -/
def crcBody (s : State) : State :=
  match checkFlen s.flen with
  | .error e => raise e s
  | .ok _ => goodEnd (tick { s with crc := crc32 (frameOperand s) })

/-- `CRC` (R176). -/
def execCrc (s : State) : Result := .next (runCommand .crc crcBody s)

end Sys2Proof.Machine
end

