-- ==== Sys2Proof/Machine/Splitter.lean ====
section
/-! DEFINITION. Machine/Splitter.lean: the chunk-boundary splitter at the function level (44_chunk_splitter.md R185 to
R192), the machine's view of a buffer (R195), and the command CHUNK (R196). -/

namespace Sys2Proof.Machine

/-- `NCHUNKS(L)` (R185): an empty frame still makes one chunk (R194). -/
def nchunks (c len : Nat) : Nat := if len = 0 then 1 else ceilDiv len c

/-- `SLICE(s, k)` = `s[k·C : min(L, (k+1)·C)]` (R186). -/
def slice (c : Nat) (s : List Byte) (k : Nat) : List Byte := seqSlice s (k * c) (min s.length ((k + 1) * c))

/-- `CONT(k)` (R188). -/
def cont (k : Nat) : Byte := if k = 0 then 0x00 else 0x02

/-- The 16 bytes of a chunk header from its variable fields: slice length, chunk index, frame length, checksum (R98, R190). -/
def headerBytes (sliceLen k len : Nat) (crc : Word) : List Byte :=
  le16 (BitVec.ofNat 16 (sliceLen + hdrLen)) ++ chunkTag ++ [cont k] ++ le32 (BitVec.ofNat 32 len) ++ le32 crc
    ++ chunkTrailer

/-- `CHUNKLEN(s, k)` (R189). -/
def chunkLen (c : Nat) (s : List Byte) (k : Nat) : Nat := (slice c s k).length + hdrLen

/-- `CHUNKHDR(s, k)` (R190). -/
def chunkHdr (c : Nat) (s : List Byte) (k : Nat) : List Byte :=
  headerBytes (slice c s k).length k s.length (crc32 s)

/-- Buffer k of a frame: `CHUNKHDR(s, k) ++ SLICE(s, k)` (R97, R192). -/
def chunkBuf (c : Nat) (s : List Byte) (k : Nat) : List Byte := chunkHdr c s k ++ slice c s k

/-- `CHUNKSEQ(s)` (R192). -/
def chunkSeq (c : Nat) (s : List Byte) : List (List Byte) := (List.range (nchunks c s.length)).map (chunkBuf c s)

/-! ## The machine's view of buffer `K` (R195) -/

/-- `len(SLICE(k))` = min(C, FLEN - k·C) (R195). -/
def sliceLenAt (s : State) (k : Nat) : Nat := min Config.hw.chunkSize (s.flen.toNat - k * Config.hw.chunkSize)

/-- `len(CHUNKBUF(k))` = 16 + min(C, FLEN - k·C) (R195). -/
def bufLenAt (s : State) (k : Nat) : Nat := hdrLen + sliceLenAt s k

/-- Byte j of `CHUNKBUF(k)` (R195): the header carries `le32(FLEN)` and `le32(CRC)`; byte j ≥ 16 is `FB[k·C + j - 16]`. -/
def bufByteAt (s : State) (k j : Nat) : Byte :=
  if j < hdrLen then (headerBytes (sliceLenAt s k) k s.flen.toNat s.crc).getD j 0
  else fbByte s (k * Config.hw.chunkSize + j - hdrLen)

/-! ## The command -/

/-- `EXEC_CHUNK` (R196). -/
def chunkBody (s : State) : State :=
  match checkFlen s.flen with
  | .error e => raise e s
  | .ok _ => emitStart (tick { s with crc := crc32 (frameOperand s) })

/-- `CHUNK` (R196). -/
def execChunk (s : State) : Result := .next (runCommand .chunk chunkBody s)

end Sys2Proof.Machine
end

