-- ==== Sys2Proof/Machine/Encode.lean ====
section
/-! DEFINITION. Machine/Encode.lean: the command ENCODE (45_host_commands.md R229). -/

namespace Sys2Proof.Machine

/-- `EXEC_ENCODE` (R229): BUILD's computation, the checksum of the frame just built, `EMIT_START`; the old `FLEN` is never
tested. -/
def encodeBody (s : State) : State :=
  match colCount s.len1.toNat s.len2.toNat with
  | .error e => raise e s
  | .ok n =>
    emitStart (tick { storeFrame (composeFrame n s) s with crc := crc32 (composeFrame n s) })

/-- `ENCODE` (R229). -/
def execEncode (s : State) : Result := .next (runCommand .encode encodeBody s)

end Sys2Proof.Machine
end

