-- ==== Sys2Proof/Machine/Dispatch.lean ====
section
/-! DEFINITION. Machine/Dispatch.lean: the meaning of each command of 30_encoding.md R92, one arm per constructor. -/

namespace Sys2Proof.Machine

def exec (i : Instr) (s : State) : Host.Outcome State Fault Refusal :=
  match i with
  | .nop => Sys2Proof.Machine.execNop s
  | .build => Sys2Proof.Machine.execBuild s
  | .crc => Sys2Proof.Machine.execCrc s
  | .chunk => Sys2Proof.Machine.execChunk s
  | .encode => Sys2Proof.Machine.execEncode s
  | .clear => Sys2Proof.Machine.execClear s

end Sys2Proof.Machine
end

