-- ==== Sys2Proof/Machine/HostPort.lean ====
section
/-! DEFINITION. Machine/HostPort.lean: the host's accesses (20_memory.md R62 to R67) and the command port
(45_host_commands.md R220, R230). -/

namespace Sys2Proof.Machine

/-- An access the spec gives a meaning is 32 bits wide, at a multiple of 4, inside the map; "the model must refuse" any other (R67). -/
def hostAccess (width off : Nat) (act : Target → Result) : Result :=
  if width ≠ 32 then .refused (.accessWidth width)
  else if off % 4 ≠ 0 then .refused (.misalignedOffset off)
  else
    match targetAt off with
    | none => .refused (.unmappedOffset off)
    | some t => act t

/-- A write to `CMD` made while `BUSY` = 0 is decoded at once, in the same step (R220); an illegal word raises
IllegalCommand(v) (R230). -/
def commandWrite (v : Word) (s : State) : Result :=
  match decode v with
  | .ok i => exec i s
  | .error _ => .next (raise (.illegalCommand v) s)

/-- A write to a target other than `CMD`, made while `BUSY` = 0 (R63). `CMD` keeps nothing (R33). -/
def writeTarget (t : Target) (v : Word) (s : State) : State :=
  match t with
  | .cmd => s
  | .status => s
  | .len1 => { s with len1 := v }
  | .len2 => { s with len2 := v }
  | .cfg0 => { s with cfg0 := cfg0OfWord v }
  | .cfgFg => { s with cfgFg := rgbOfWord v }
  | .cfgBg => { s with cfgBg := rgbOfWord v }
  | .flen => { s with flen := v }
  | .crc => s
  | .nchunk => s
  | .errInfo => s
  | .line1 i => { s with line1 := Memory.write i (codeOfWord v) s.line1 }
  | .line2 i => { s with line2 := Memory.write i (codeOfWord v) s.line2 }
  | .fb j => { s with fb := Memory.write j (byteOfWord v) s.fb }

/-- `HostWrite(off, v)`: dropped while `BUSY` = 1 (R65), else by target (R63). -/
def hostWrite (width off : Nat) (v : Word) (s : State) : Result :=
  hostAccess width off fun t =>
    if s.status.busy then .next (dropWrite s)
    else if t = .cmd then commandWrite v s
    else .next (writeTarget t v s)

/-- What a read returns while `BUSY` = 0 (R64). -/
def idleRead (t : Target) (s : State) : Word :=
  match t with
  | .cmd => 0
  | .status => statusWord s.status
  | .len1 => s.len1
  | .len2 => s.len2
  | .cfg0 => cfg0Word s.cfg0
  | .cfgFg => rgbWord s.cfgFg
  | .cfgBg => rgbWord s.cfgBg
  | .flen => s.flen
  | .crc => s.crc
  | .nchunk => s.nchunk
  | .errInfo => s.errInfo
  | .line1 i => (lineCode 1 s.line1 s.draws i).setWidth 32
  | .line2 i => (lineCode 2 s.line2 s.draws i).setWidth 32
  | .fb j => (fbByte s j).setWidth 32

/-- What a read returns while `BUSY` = 1 (R66): a draw for `FLEN`, `CRC`, `NCHUNK` and `FB[j]`, 0 for `ERRINFO`, the exact
value for the rest. -/
def busyRead (t : Target) (s : State) : Word :=
  match t with
  | .flen => Config.drawWord s.draws
  | .crc => Config.drawWord s.draws
  | .nchunk => Config.drawWord s.draws
  | .fb _ => Config.drawWord s.draws
  | .errInfo => 0
  | .cmd => idleRead .cmd s
  | .status => idleRead .status s
  | .len1 => idleRead .len1 s
  | .len2 => idleRead .len2 s
  | .cfg0 => idleRead .cfg0 s
  | .cfgFg => idleRead .cfgFg s
  | .cfgBg => idleRead .cfgBg s
  | .line1 i => idleRead (.line1 i) s
  | .line2 i => idleRead (.line2 i) s

/-- The value a read returns (R64, R66). -/
def readValue (t : Target) (s : State) : Word := if s.status.busy then busyRead t s else idleRead t s

/-- `HostRead(off)`: the value goes to the host; "No read has a side effect" on the block (R64). -/
def hostRead (width off : Nat) (s : State) : Result :=
  hostAccess width off fun t => .next (tick { s with reads := s.reads ++ [readValue t s] })

end Sys2Proof.Machine
end

