-- ==== Sys2Proof/Machine/Stream.lean ====
section
/-! DEFINITION. Machine/Stream.lean: the transport stream (44_chunk_splitter.md R200 to R205). -/

namespace Sys2Proof.Machine

/-- `tx_valid`: 1 exactly when `PHASE` = `EMIT` (R200). -/
def txValid (s : State) : Bool := decide (s.phase = .emit)

/-- `tx_data` = `CHUNKBUF(K)[POS]` (R200); "not meaningful" outside `EMIT`. -/
def txData (s : State) : Byte := bufByteAt s s.k s.pos

/-- `tx_last`: 1 exactly when `POS` = len(CHUNKBUF(K)) - 1 (R200); "not meaningful" outside `EMIT`. -/
def txLast (s : State) : Bool := decide (s.pos + 1 = bufLenAt s s.k)

/-- The transport accepts the byte on offer: a beat that is not the last (R201) or the last of its buffer (R202). A `POS`
past the buffer, which R34 and R35 (e) exclude, has no transition (R223). -/
def beat (s : State) : State :=
  if s.pos + 1 < bufLenAt s s.k then
    tick { s with received := s.received ++ [⟨txData s, false⟩], pos := s.pos + 1 }
  else if s.pos + 1 = bufLenAt s s.k then
    tick { s with received := s.received ++ [⟨txData s, true⟩], phase := .resp }
  else s

/-- The answer `OK` (R203). -/
def answerOk (s : State) : State :=
  if s.k + 1 < nchunks Config.hw.chunkSize s.flen.toNat then
    { s with nchunk := s.nchunk + 1, k := s.k + 1, pos := 0, phase := .emit }
  else goodEnd { s with nchunk := s.nchunk + 1 }

/-- The answer `FAIL`: `raise TransportError(K)` (R204). -/
def answerFail (s : State) : State := raise (.transportError s.k) s

/-- The transport drives its three signals. A byte is accepted when `tx_valid` and `tx_ready` are both 1; an answer is
taken when the block is in `RESP` and `resp_valid` is 1 (R200); "the block ignores `resp_valid` outside `RESP`" and waits
otherwise (R205). -/
def transportStep (txReady respValid respOk : Bool) (s : State) : State :=
  match s.phase with
  | .idle => s
  | .exec => s
  | .emit => if txReady then beat s else s
  | .resp => if respValid then (if respOk then answerOk s else answerFail s) else s

end Sys2Proof.Machine
end

