-- ==== Sys2Proof/Machine/Agents.lean ====
section
/-! DEFINITION. Machine/Agents.lean: one move of one agent (00_scope.md R5), and how a command word comes to be written. -/

namespace Sys2Proof.Machine

/-- The sequencer's turn: in `IDLE` no command is running and nothing happens (R263); otherwise the accepted command goes
on: its `EXEC` step (R222), or it waits (R205). -/
def sequencerStep (s : State) : Result :=
  match s.phase with
  | .idle => .next s
  | .exec => exec s.op.instr s
  | .emit => exec s.op.instr s
  | .resp => exec s.op.instr s

/-- One move, each atomic (R73). -/
def eventStep (e : Event) (s : State) : Result :=
  match e with
  | .hostRead width off => hostRead width off s
  | .hostWrite width off v => hostWrite width off v s
  | .sequencer => sequencerStep s
  | .transport txReady respValid respOk => .next (transportStep txReady respValid respOk s)
  | .reset => .next (resetBlock s)

/-- The next move of the total order of R73: the first one of the agenda; where the environment has none to make, the
sequencer's, which comes "a finite, unstated time after acceptance" (R285). -/
def nextMove (s : State) : Result :=
  match s.agenda with
  | [] => sequencerStep s
  | e :: rest => eventStep e { s with agenda := rest }

/-- The command word on its way to `CMD` as the very next move, into a block that takes it (log entry 6). -/
def placeCommand (v : Word) (s : State) : State :=
  { s with
    agenda := .hostWrite 32 (Target.offset .cmd) v :: s.agenda
    status := { s.status with busy := false }
    phase := .idle }

end Sys2Proof.Machine
end

