-- ==== Sys2Proof/Safety.lean ====
section
/-! DEFINITION. Safety.lean: the terms claims use: which runs the spec gives a meaning (10_state.md R39; 20_memory.md R67),
and the invariants of the state (R35). -/

namespace Sys2Proof.Machine

/-- The step in which the move `e` comes next. -/
def stepOn (e : Event) (s : State) : Result := step { s with agenda := e :: s.agenda }

/-- The number that a byte string reads as, little-endian (20_memory.md R68). -/
def leValue : List Byte → Nat
  | [] => 0
  | b :: bs => b.toNat + 256 * leValue bs

/-- Chunk `k` of the frame `s` is its short last chunk: the last one, with fewer than `c` bytes (44_chunk_splitter.md R191). -/
abbrev ShortLast (c : Nat) (s : List Byte) (k : Nat) : Prop :=
  k + 1 = nchunks c s.length ∧ (slice c s k).length < c

/-- An access R67 gives a meaning: 32 bits wide, at a multiple of 4, inside the map of R61. -/
def AccessLegal (width off : Nat) : Prop := width = 32 ∧ off % 4 = 0 ∧ (targetAt off).isSome = true

/-- A move that is no access outside the map: the host "must" never make one (R233). -/
def MoveLegal : Event → Prop
  | .hostRead width off => AccessLegal width off
  | .hostWrite width off _ => AccessLegal width off
  | .sequencer => True
  | .transport _ _ _ => True
  | .reset => True

/-- Every `FB` cell below `FLEN` is written: what CRC and CHUNK need to be inside the spec (R39, R282). -/
def FrameWritten (s : State) : Prop := ∀ j, j < s.flen.toNat → (Memory.read s.fb j).isSome = true

/-- Every line cell below its length is written: what BUILD and ENCODE need to be inside the spec (R39, R282). -/
def LinesWritten (s : State) : Prop :=
  (∀ i, i < s.len1.toNat → (Memory.read s.line1 i).isSome = true) ∧
  (∀ i, i < s.len2.toNat → (Memory.read s.line2 i).isSome = true)

/-- The three buffers are in the model's canonical form (log entry 13) and inside their sizes (R23, R30). -/
def BuffersWf (s : State) : Prop :=
  Memory.wf Config.lineDepth s.line1 ∧ Memory.wf Config.lineDepth s.line2 ∧ Memory.wf Config.hw.fbSize s.fb

/-- The sequencer is sending: `PHASE` is `EMIT` or `RESP`. -/
def Sending (s : State) : Prop := s.phase = .emit ∨ s.phase = .resp

/-- The invariants of R35 (a) to (e). The checksum clause of (d) is for frames inside the spec: where a cell below `FLEN`
is unwritten, each read of it is a draw (log entry 3). -/
structure Inv (s : State) : Prop where
  /-- (a) -/
  busy_iff : s.status.busy = true ↔ s.phase ≠ .idle
  /-- (b) -/
  not_both : ¬ (s.status.done = true ∧ s.status.err = true)
  /-- (b) -/
  busy_clean : s.status.busy = true → s.status.done = false ∧ s.status.err = false
  /-- (c) -/
  errCode_iff : s.status.errCode ≠ 0 ↔ s.status.err = true
  /-- (c) -/
  errInfo_zero : s.status.err = false → s.errInfo = 0
  /-- (d) -/
  flen_le : Sending s → s.flen.toNat ≤ Config.hw.fbSize
  /-- (d) -/
  crc_eq : Sending s → FrameWritten s → s.crc = crc32 (frameOperand s)
  /-- (d) -/
  k_lt : Sending s → s.k < nchunks Config.hw.chunkSize s.flen.toNat
  /-- (d) -/
  nchunk_eq : Sending s → s.nchunk.toNat = s.k
  /-- (d) -/
  op_sends : Sending s → s.op = .chunk ∨ s.op = .encode
  /-- (e) -/
  pos_lt : s.phase = .emit → s.pos < bufLenAt s s.k

/-- The beats of one buffer: `last` is 1 on the final byte and 0 on every other byte (R72). -/
def bufferBeats : List Byte → List Beat
  | [] => []
  | [b] => [⟨b, true⟩]
  | b :: c :: rest => ⟨b, false⟩ :: bufferBeats (c :: rest)

/-- The beats of the first `n` buffers of a frame (R72, R206). -/
def beatsOf (frame : List Byte) (n : Nat) : List Beat :=
  ((chunkSeq Config.hw.chunkSize frame).take n).flatMap bufferBeats

/-- What the transport holds of an emission that began when it had received `before`: in `EMIT` the buffers below `K` and
the first `POS` beats of buffer `K`, in `RESP` the buffers up to `K` (R201 to R203). -/
def StreamSoFar (before : List Beat) (s : State) : Prop :=
  (s.phase = .emit →
    s.received = before ++ beatsOf (frameOperand s) s.k
      ++ (bufferBeats (chunkBuf Config.hw.chunkSize (frameOperand s) s.k)).take s.pos) ∧
  (s.phase = .resp → s.received = before ++ beatsOf (frameOperand s) (s.k + 1))

/-- The transport's part in sending one buffer of `n` bytes at once: it accepts every byte and answers `OK` (R205). -/
def readyForBuffer (n : Nat) : List Event :=
  List.replicate n (.transport true false false) ++ [.transport false true true]

/-- The transport's part in sending a whole frame of `len` bytes: every buffer accepted and answered `OK` (R205, R224). -/
def readyForFrame (len : Nat) : List Event :=
  (List.range (nchunks Config.hw.chunkSize len)).flatMap fun k =>
    readyForBuffer (hdrLen + min Config.hw.chunkSize (len - k * Config.hw.chunkSize))

end Sys2Proof.Machine
end

