-- ==== Sys2Proof/Certificates/Slice0/Obligations.lean ====
section
/-! DEFINITION. Certificates/Slice0/Obligations.lean: what is to be proved of the model. Each docstring names the rule
of spec/ the statement formalises; OBLIGATIONS.json lists them. -/

open Sys2Proof Sys2Proof.Machine

/-! ## The command word -/

/-- R92: the six words of the table, written out bit by bit, decode to their commands. -/
def Obligations.TableWordsDecode : Prop :=
  decode 0b00000000000000000000000000000000#32 = .ok .nop ∧
  decode 0b00000000000000000000000000000001#32 = .ok .build ∧
  decode 0b00000000000000000000000000000010#32 = .ok .crc ∧
  decode 0b00000000000000000000000000000011#32 = .ok .chunk ∧
  decode 0b00000000000000000000000000000100#32 = .ok .encode ∧
  decode 0b00000000000000000000000000000101#32 = .ok .clear

/-- R92 and R93: a word decodes to a command exactly when it is that command's word, so decoding and encoding agree in
both directions and no two commands share a word. -/
def Obligations.DecodeExactlyTheEncodings : Prop :=
  ∀ (v : Word) (i : Instr), decode v = .ok i ↔ v = encode i

/-- R93: the illegal words are those with a bit of 31:8 set and those with a code 0x06 to 0xFF. -/
def Obligations.IllegalWordsAreRejected : Prop :=
  ∀ v : Word, (∃ e, decode v = .error e) ↔
    v.extractLsb' 8 24 ≠ 0#24 ∨ (v.extractLsb' 8 24 = 0#24 ∧ 0x06#8 ≤ v.extractLsb' 0 8)

/-! ## A step runs the decoded command -/

/-- R220: a `CMD` write made while `BUSY` = 0 whose word decodes to `i` is, in the same step, the meaning of `i`. -/
def Obligations.StepRunsTheDecodedCommand : Prop :=
  ∀ (s : State) (rest : List Event) (v : Word) (i : Instr),
    s.agenda = .hostWrite 32 0x00 v :: rest → s.status.busy = false → decode v = .ok i →
    step s = exec i { s with agenda := rest }

/-- R222: in `EXEC` the sequencer's step is the meaning of the accepted command `OP`; the model lets it move when it
comes next and when no other move is left (log entry 4). -/
def Obligations.StepRunsTheAcceptedCommand : Prop :=
  ∀ s : State, s.phase = .exec →
    stepOn .sequencer s = exec s.op.instr s ∧ (s.agenda = [] → step s = exec s.op.instr s)

/-- R221: acceptance of BUILD, CRC, CHUNK or ENCODE, as the meaning of the command in `IDLE` and as the step of its `CMD`
write. -/
def Obligations.AcceptanceStartsTheCommand : Prop :=
  ∀ (op : Op) (s : State) (v : Word), s.phase = .idle →
    let t : State := { s with
      status := { busy := true, done := false, err := false, errCode := 0, werr := s.status.werr }
      errInfo := 0
      op := op
      phase := .exec }
    exec op.instr s = .next t ∧
    (s.status.busy = false → decode v = .ok op.instr → stepOn (.hostWrite 32 0x00 v) s = .next t)

/-- R230: an illegal word written while `BUSY` = 0 raises IllegalCommand and changes nothing but the status and the
error's record. -/
def Obligations.IllegalCommandIsRaised : Prop :=
  ∀ (s : State) (v : Word) (e : DecodeError),
    s.status.busy = false → s.phase = .idle → decode v = .error e →
    stepOn (.hostWrite 32 0x00 v) s = .next { s with
      status := { s.status with done := false, err := true, errCode := 3 }
      errInfo := v }

/-! ## The meanings of the commands -/

/-- R227: NOP completes in every state and changes nothing; its word written while `BUSY` = 1 is dropped and sets `WERR`. -/
def Obligations.NopChangesNothing : Prop :=
  ∀ s : State, exec .nop s = .next s ∧
    (s.status.busy = false → stepOn (.hostWrite 32 0x00 0x00000000) s = .next s) ∧
    (s.status.busy = true →
      stepOn (.hostWrite 32 0x00 0x00000000) s = .next { s with status := { s.status with werr := true } })

/-- R228: CLEAR clears `DONE`, `ERR`, `ERRCODE`, `WERR` and `ERRINFO`, and touches nothing else; its word written while
`BUSY` = 1 is dropped and sets `WERR`. -/
def Obligations.ClearResult : Prop :=
  ∀ s : State,
    let t : State := { s with
      status := { busy := s.status.busy, done := false, err := false, errCode := 0, werr := false }
      errInfo := 0 }
    exec .clear s = .next t ∧
    (s.status.busy = false → stepOn (.hostWrite 32 0x00 0x00000005) s = .next t) ∧
    (s.status.busy = true →
      stepOn (.hostWrite 32 0x00 0x00000005) s = .next { s with status := { s.status with werr := true } })

/-- R156, R150, R256: in the `EXEC` step, BUILD with at most 255 columns completes: `FB[0:L]` is `BUILDFRAME` of the
operands, `FLEN` is L, good end; cells at and above L and everything else keep their values (`draws` is the model's own,
log entry 3). With more columns it ends with CapacityExceeded(N) and changes nothing else. -/
def Obligations.BuildResult : Prop :=
  ∀ s : State, s.phase = .exec →
    (max s.len1.toNat s.len2.toNat ≤ 255 →
      ∃ f fb', buildFrame Config.hw s.cfg0 s.cfgFg s.cfgBg (line1Operand s) (line2Operand s) = .ok f ∧
        exec .build s = .next { s with
          fb := fb'
          flen := BitVec.ofNat 32 f.length
          status := { s.status with busy := false, done := true }
          phase := .idle
          draws := s.draws + 1 } ∧
        (∀ j, j < f.length → Memory.read fb' j = f[j]?) ∧
        (∀ j, f.length ≤ j → Memory.read fb' j = Memory.read s.fb j)) ∧
    (255 < max s.len1.toNat s.len2.toNat →
      exec .build s = .next { s with
        status := { busy := false, done := false, err := true, errCode := 1, werr := s.status.werr }
        errInfo := BitVec.ofNat 32 (max s.len1.toNat s.len2.toNat)
        phase := .idle })

/-- R176, R175, R256: CRC with `FLEN` ≤ `FB_SIZE` completes: `CRC` is `CRC32(FB[0:FLEN])`, good end, nothing else changed.
With a larger `FLEN` it ends with FrameRange(FLEN) and changes nothing else. -/
def Obligations.CrcResult : Prop :=
  ∀ s : State, s.phase = .exec →
    (s.flen.toNat ≤ 5114 →
      exec .crc s = .next { s with
        crc := crc32 (frameOperand s)
        status := { s.status with busy := false, done := true }
        phase := .idle
        draws := s.draws + 1 }) ∧
    (5114 < s.flen.toNat →
      exec .crc s = .next { s with
        status := { busy := false, done := false, err := true, errCode := 4, werr := s.status.werr }
        errInfo := s.flen
        phase := .idle })

/-- R196, R197, R175: CHUNK with `FLEN` ≤ `FB_SIZE` checksums the frame and starts the emission; `FB` and `FLEN` are
unchanged. With a larger `FLEN` it ends with FrameRange(FLEN) before anything is emitted. -/
def Obligations.ChunkResult : Prop :=
  ∀ s : State, s.phase = .exec →
    (s.flen.toNat ≤ 5114 →
      exec .chunk s = .next { s with
        crc := crc32 (frameOperand s)
        nchunk := 0
        k := 0
        pos := 0
        phase := .emit
        draws := s.draws + 1 }) ∧
    (5114 < s.flen.toNat →
      exec .chunk s = .next { s with
        status := { busy := false, done := false, err := true, errCode := 4, werr := s.status.werr }
        errInfo := s.flen
        phase := .idle })

/-- R229, R197: ENCODE with at most 255 columns stores `BUILDFRAME` of the operands, its length and its checksum, and
starts the emission, whatever the old `FLEN` was. With more columns it ends with CapacityExceeded(N), nothing else changed. -/
def Obligations.EncodeResult : Prop :=
  ∀ s : State, s.phase = .exec →
    (max s.len1.toNat s.len2.toNat ≤ 255 →
      ∃ f fb', buildFrame Config.hw s.cfg0 s.cfgFg s.cfgBg (line1Operand s) (line2Operand s) = .ok f ∧
        exec .encode s = .next { s with
          fb := fb'
          flen := BitVec.ofNat 32 f.length
          crc := crc32 f
          nchunk := 0
          k := 0
          pos := 0
          phase := .emit
          draws := s.draws + 1 } ∧
        (∀ j, j < f.length → Memory.read fb' j = f[j]?) ∧
        (∀ j, f.length ≤ j → Memory.read fb' j = Memory.read s.fb j)) ∧
    (255 < max s.len1.toNat s.len2.toNat →
      exec .encode s = .next { s with
        status := { busy := false, done := false, err := true, errCode := 1, werr := s.status.werr }
        errInfo := BitVec.ofNat 32 (max s.len1.toNat s.len2.toNat)
        phase := .idle })

/-- R40: the frame of the commands, in every phase. No command writes the lengths, the lines or the configuration, or
moves a beat or a read; only BUILD and ENCODE write `FB` and `FLEN`, and only below the new `FLEN`; only CRC, CHUNK and
ENCODE write `CRC`; only CHUNK and ENCODE write `NCHUNK`, `K` and `POS`; only CLEAR writes `WERR`. -/
def Obligations.CommandFrame : Prop :=
  ∀ (i : Instr) (s t : State), exec i s = .next t →
    t.len1 = s.len1 ∧ t.len2 = s.len2 ∧ t.line1 = s.line1 ∧ t.line2 = s.line2 ∧
    t.cfg0 = s.cfg0 ∧ t.cfgFg = s.cfgFg ∧ t.cfgBg = s.cfgBg ∧
    t.received = s.received ∧ t.reads = s.reads ∧ t.agenda = s.agenda ∧
    (i ≠ .clear → t.status.werr = s.status.werr) ∧
    (i ≠ .build → i ≠ .encode → t.flen = s.flen ∧ ∀ j, Memory.read t.fb j = Memory.read s.fb j) ∧
    (i = .build ∨ i = .encode → ∀ j, t.flen.toNat ≤ j → Memory.read t.fb j = Memory.read s.fb j) ∧
    (i = .nop ∨ i = .build ∨ i = .clear → t.crc = s.crc) ∧
    (i ≠ .chunk → i ≠ .encode → t.nchunk = s.nchunk ∧ t.k = s.k ∧ t.pos = s.pos)

/-! ## The function level -/

/-- R130, R132: a lookup never fails: it gives the table's glyph or the space glyph, always of `G` bytes. -/
def Obligations.LookupNeverFails : Prop :=
  ∀ cfg : Config, cfg.WellFormed → ∀ c : cfg.Code,
    (lookup cfg c).length = cfg.glyphSize ∧
    (∀ g, cfg.glyphTable c = some g → lookup cfg c = g) ∧
    (cfg.glyphTable c = none → some (lookup cfg c) = cfg.glyphTable cfg.space ∧ lookup cfg c = lookup cfg cfg.space)

/-- R143: column i of `ASSEMBLE` occupies bytes i·COLLEN to (i+1)·COLLEN - 1: header, line 1's glyph, line 2's glyph. -/
def Obligations.ColumnLayoutLaw : Prop :=
  ∀ (cfg : Config), cfg.WellFormed → ∀ (line1 line2 : List cfg.Code) (i : Nat), i < max line1.length line2.length →
    let col := seqSlice (assemble cfg line1 line2) (i * cfg.colLen) ((i + 1) * cfg.colLen)
    seqSlice col 0 4 = [0x02, 0xFF, 0xFF, 0xFF] ∧
    seqSlice col 4 (4 + cfg.glyphSize) = lookup cfg (charAt cfg line1 i) ∧
    seqSlice col (4 + cfg.glyphSize) (4 + 2 * cfg.glyphSize) = lookup cfg (charAt cfg line2 i)

/-- R144: past the end of a line, its place in the column holds the space glyph; before it, the glyph of its character. -/
def Obligations.PaddingLaw : Prop :=
  ∀ (cfg : Config), cfg.WellFormed → ∀ (line1 line2 : List cfg.Code) (i : Nat),
    (line2.length ≤ i → seqSlice (column cfg line1 line2 i) (4 + cfg.glyphSize) (4 + 2 * cfg.glyphSize)
      = lookup cfg cfg.space) ∧
    (line1.length ≤ i → seqSlice (column cfg line1 line2 i) 4 (4 + cfg.glyphSize) = lookup cfg cfg.space) ∧
    (∀ c, line2[i]? = some c → seqSlice (column cfg line1 line2 i) (4 + cfg.glyphSize) (4 + 2 * cfg.glyphSize)
      = lookup cfg c) ∧
    (∀ c, line1[i]? = some c → seqSlice (column cfg line1 line2 i) 4 (4 + cfg.glyphSize) = lookup cfg c)

/-- R150: `BUILDFRAME` fails exactly when the longer line has more than 255 characters, with N as it stands. -/
def Obligations.CapacityCheckIsExact : Prop :=
  ∀ (cfg : Config) (c : Cfg0) (fg bg : Rgb) (line1 line2 : List cfg.Code) (e : CmdError),
    buildFrame cfg c fg bg line1 line2 = .error e ↔
      255 < max line1.length line2.length ∧ e = .capacityExceeded (max line1.length line2.length)

/-- R155: the length of a frame is 14 + N·(4 + 2·G), a function of N alone; with G = 8 the rule's six values, and never
4096. -/
def Obligations.FrameLengthLaw : Prop :=
  ∀ (cfg : Config), cfg.WellFormed → ∀ (c : Cfg0) (fg bg : Rgb) (line1 line2 : List cfg.Code) (f : List Byte),
    buildFrame cfg c fg bg line1 line2 = .ok f →
    f.length = frameLen cfg (max line1.length line2.length) ∧
    (∀ n, frameLen cfg n = 14 + n * (4 + 2 * cfg.glyphSize)) ∧
    (cfg.glyphSize = 8 → f.length ≠ 4096 ∧ frameLen cfg 0 = 14 ∧ frameLen cfg 1 = 34 ∧ frameLen cfg 2 = 54 ∧
      frameLen cfg 204 = 4094 ∧ frameLen cfg 205 = 4114 ∧ frameLen cfg 255 = 5114)

/-- R95: the 14 bytes a frame begins with, the column count N in byte 0 and 0 in byte 1. -/
def Obligations.TextHeaderLayout : Prop :=
  ∀ (cfg : Config) (c : Cfg0) (fg bg : Rgb) (line1 line2 : List cfg.Code) (f : List Byte),
    buildFrame cfg c fg bg line1 line2 = .ok f →
    leValue (seqSlice f 0 2) = max line1.length line2.length ∧
    (∀ b, f[0]? = some b → b.toNat = max line1.length line2.length) ∧ f[1]? = some 0x00 ∧
    f[2]? = some 0x00 ∧ f[3]? = some 0x01 ∧
    f[4]? = some c.mode ∧ f[5]? = some c.speed ∧ f[6]? = some c.colorMode ∧
    f[7]? = some fg.r ∧ f[8]? = some fg.g ∧ f[9]? = some fg.b ∧ f[10]? = some c.bgMode ∧
    f[11]? = some bg.r ∧ f[12]? = some bg.g ∧ f[13]? = some bg.b

/-- R171: the table form of the checksum equals the shift form of R170, with the table entries the rule names. -/
def Obligations.CrcTableForm : Prop :=
  (∀ n : Byte, crcTable n = crcByte (n.setWidth 32) 0x00#8) ∧
  (∀ (r : Word) (b : Byte), crcByte r b = crcTable ((r ^^^ b.setWidth 32).extractLsb' 0 8) ^^^ (r >>> 8)) ∧
  crcTable 0 = 0x00000000#32 ∧ crcTable 1 = 0x77073096#32 ∧ crcTable 128 = 0xEDB88320#32 ∧
  crcTable 255 = 0x2D02EF8D#32

/-- R170 (a) and its example: `CRC32([])` is 0 and the check value of "123456789" is 0xCBF43926; and the trace of R177. -/
def Obligations.CrcCheckValues : Prop :=
  crc32 [] = 0x00000000#32 ∧
  crc32 [0x31, 0x32, 0x33, 0x34, 0x35, 0x36, 0x37, 0x38, 0x39] = 0xCBF43926#32 ∧
  crc32 [0x61] = 0xE8B7BE43#32

/-- R185: `NCHUNKS(L)` is 1 for L = 0 and else the least number of slices of at most C bytes that hold L bytes. -/
def Obligations.ChunkCountLaw : Prop :=
  ∀ c : Nat, 1 ≤ c → nchunks c 0 = 1 ∧
    ∀ len, 0 < len → len ≤ nchunks c len * c ∧ ∀ q, len ≤ q * c → nchunks c len ≤ q

/-- R187: the slices give back the frame; all but the last are full. -/
def Obligations.SliceLaws : Prop :=
  ∀ c : Nat, 1 ≤ c → ∀ s : List Byte,
    let n := nchunks c s.length
    (List.range n).flatMap (slice c s) = s ∧
    ((List.range n).map fun k => (slice c s k).length).sum = s.length ∧
    (∀ k, k < n - 1 → (slice c s k).length = c) ∧
    (slice c s (n - 1)).length = s.length - (n - 1) * c

/-- R191: two headers of one frame, each of 16 bytes, agree at offsets 2, 3 and 5 to 15; at offset 4 too unless one of them
is chunk 0; at offsets 0 and 1 too unless one of them is the short last chunk, one of fewer than C bytes. -/
def Obligations.HeaderConstancy : Prop :=
  ∀ (c : Nat) (s : List Byte) (j k : Nat), 1 ≤ c → j < nchunks c s.length → k < nchunks c s.length →
    (chunkHdr c s j).length = 16 ∧
    (∀ i, i = 2 ∨ i = 3 ∨ (5 ≤ i ∧ i ≤ 15) → (chunkHdr c s j)[i]? = (chunkHdr c s k)[i]?) ∧
    (j ≠ 0 → k ≠ 0 → (chunkHdr c s j)[4]? = (chunkHdr c s k)[4]?) ∧
    (¬ ShortLast c s j → ¬ ShortLast c s k → ∀ i, i ≤ 1 → (chunkHdr c s j)[i]? = (chunkHdr c s k)[i]?)

/-- R98, R188: the constant bytes of every header, and its continuation byte: 0 for chunk 0 and 2 for every later one. -/
def Obligations.HeaderConstants : Prop :=
  ∀ (c : Nat) (s : List Byte) (k : Nat),
    seqSlice (chunkHdr c s k) 2 4 = [0x03, 0x00] ∧
    (chunkHdr c s k)[4]? = some (if k = 0 then 0x00 else 0x02) ∧
    seqSlice (chunkHdr c s k) 13 16 = [0x00, 0x00, 0x0C]

/-- R193: the reconstruction law: headers dropped, the buffers give back the frame; each buffer's bytes 5 to 8 read the
frame's length, bytes 9 to 12 its checksum, bytes 0 to 1 the buffer's own length. R198: the fields hold their values under
these bounds on C and on the length, which this hardware's C and `FB_SIZE` meet, and no configuration beyond them is one
the model admits. -/
def Obligations.ReconstructionLaw : Prop :=
  (∀ c : Nat, 1 ≤ c → c ≤ 65519 → ∀ s : List Byte, s.length < 2 ^ 32 →
    (chunkSeq c s).flatMap (List.drop 16) = s ∧
    ∀ buf ∈ chunkSeq c s,
      leValue (seqSlice buf 5 9) = s.length ∧
      leValue (seqSlice buf 9 13) = (crc32 s).toNat ∧
      leValue (seqSlice buf 0 2) = buf.length) ∧
  (1 ≤ Config.hw.chunkSize ∧ Config.hw.chunkSize ≤ 65519 ∧ Config.hw.fbSize < 2 ^ 32) ∧
  (∀ cfg : Config, ¬ (1 ≤ cfg.chunkSize ∧ cfg.chunkSize ≤ 65519 ∧ cfg.fbSize < 2 ^ 32) → ¬ cfg.WellFormed)

/-- R192 and R194: the sequence is never empty, each buffer has 16 to 16 + C bytes, all together have L + 16·NCHUNKS(L),
and the empty frame gives exactly one buffer, a header alone. -/
def Obligations.ChunkSequenceSizes : Prop :=
  ∀ c : Nat, 1 ≤ c → ∀ s : List Byte,
    (chunkSeq c s).length = nchunks c s.length ∧ 1 ≤ (chunkSeq c s).length ∧
    (∀ buf ∈ chunkSeq c s, 16 ≤ buf.length ∧ buf.length ≤ 16 + c) ∧
    (chunkSeq c s).flatten.length = s.length + 16 * nchunks c s.length ∧
    chunkSeq c [] = [[0x10, 0x00, 0x03, 0x00, 0x00, 0x00, 0x00, 0x00, 0x00, 0x00, 0x00, 0x00, 0x00, 0x00, 0x00, 0x0C]]

/-! ## The transport stream -/

/-- R195, R200: while the block sends a frame inside the spec, the byte on offer is `CHUNKBUF(K)[POS]` of the function
level, and `tx_last` marks the buffer's final byte; outside `EMIT` no byte is on offer. -/
def Obligations.OfferedByteIsTheBuffersByte : Prop :=
  ∀ s : State,
    (txValid s = true ↔ s.phase = .emit) ∧
    (Inv s → s.phase = .emit → FrameWritten s →
      (chunkBuf Config.hw.chunkSize (frameOperand s) s.k)[s.pos]? = some (txData s) ∧
      (txLast s = true ↔ s.pos + 1 = (chunkBuf Config.hw.chunkSize (frameOperand s) s.k).length))

/-- R201, R202: an accepted byte is received and `POS` goes on, or, on the buffer's final byte, `PHASE` becomes `RESP`. -/
def Obligations.AcceptedBeat : Prop :=
  ∀ (s : State) (vld ok : Bool), s.phase = .emit →
    (s.pos + 1 < bufLenAt s s.k →
      stepOn (.transport true vld ok) s = .next { s with
        received := s.received ++ [{ data := bufByteAt s s.k s.pos, last := false }]
        pos := s.pos + 1
        draws := s.draws + 1 }) ∧
    (s.pos + 1 = bufLenAt s s.k →
      stepOn (.transport true vld ok) s = .next { s with
        received := s.received ++ [{ data := bufByteAt s s.k s.pos, last := true }]
        phase := .resp
        draws := s.draws + 1 })

/-- R203: the answer `OK`. -/
def Obligations.AnswerOkResult : Prop :=
  ∀ (s : State) (rdy : Bool), s.phase = .resp →
    (s.k + 1 < nchunks 4096 s.flen.toNat →
      stepOn (.transport rdy true true) s = .next { s with
        nchunk := s.nchunk + 1, k := s.k + 1, pos := 0, phase := .emit }) ∧
    (nchunks 4096 s.flen.toNat ≤ s.k + 1 →
      stepOn (.transport rdy true true) s = .next { s with
        nchunk := s.nchunk + 1
        status := { s.status with busy := false, done := true }
        phase := .idle })

/-- R204: the answer `FAIL` raises TransportError(K); `NCHUNK`, `FB`, `FLEN` and `CRC` keep their values. -/
def Obligations.AnswerFailResult : Prop :=
  ∀ (s : State) (rdy : Bool), s.phase = .resp →
    stepOn (.transport rdy true false) s = .next { s with
      status := { busy := false, done := false, err := true, errCode := 2, werr := s.status.werr }
      errInfo := BitVec.ofNat 32 s.k
      phase := .idle }

/-- R205: the block waits for the transport without limit and ignores `resp_valid` outside `RESP`. The last clause is the
model's choice and no rule's: that the sequencer's turn changes nothing while the block sends (log entry 15, DEDUCED), and
that the sequencer is the one to move on an empty agenda (log entry 4, DESIGN CHOICE). -/
def Obligations.StreamWaits : Prop :=
  ∀ (s : State) (rdy vld ok : Bool),
    (s.phase = .emit → stepOn (.transport false vld ok) s = .next s) ∧
    (s.phase = .resp → stepOn (.transport rdy false ok) s = .next s) ∧
    (s.phase = .idle ∨ s.phase = .exec → stepOn (.transport rdy vld ok) s = .next s) ∧
    (Sending s → stepOn .sequencer s = .next s ∧ (s.agenda = [] → step s = .next s))

/-- R206: the end-to-end law of the stream, for every interleaving of host, sequencer and transport. An emission begins
with nothing of it received; every step but reset keeps what has been received the right part of `CHUNKSEQ(FB[0:FLEN])`;
when the emission ends, it is all of it with `DONE` and `NCHUNK` = NCHUNKS(FLEN), or, after the first `FAIL`, exactly the
buffers up to `K` with TransportError(K). -/
def Obligations.StreamIsTheChunkSequence : Prop :=
  (∀ (i : Instr) (s t : State), s.phase = .exec → exec i s = .next t → Sending t → StreamSoFar s.received t) ∧
  (∀ (before : List Beat) (s t : State), Inv s → FrameWritten s → Sending s → StreamSoFar before s →
    s.agenda.head? ≠ some .reset → step s = .next t →
      FrameWritten t ∧ frameOperand t = frameOperand s ∧
      (Sending t → StreamSoFar before t) ∧
      (¬ Sending t →
        (t.status.done = true ∧ t.nchunk.toNat = nchunks Config.hw.chunkSize s.flen.toNat ∧
          t.received = before ++ (chunkSeq Config.hw.chunkSize (frameOperand s)).flatMap bufferBeats) ∨
        (t.status.err = true ∧ t.status.errCode = 2 ∧ t.errInfo = BitVec.ofNat 32 s.k ∧
          t.received = before ++ beatsOf (frameOperand s) (s.k + 1))))

/-- R206, R224: when the transport accepts every byte and answers every buffer `OK`, the emission ends, after FLEN +
16·NCHUNKS(FLEN) beats and NCHUNKS(FLEN) answers, with exactly `CHUNKSEQ(FB[0:FLEN])` received. -/
def Obligations.ReadyTransportReceivesTheFrame : Prop :=
  ∀ (s : State) (rest : List Event), Inv s → FrameWritten s → s.phase = .emit → s.k = 0 → s.pos = 0 →
    s.agenda = readyForFrame s.flen.toNat ++ rest →
    ∃ t : State,
      Host.Core.run Sys2Proof.core (s.flen.toNat + 16 * nchunks 4096 s.flen.toNat + nchunks 4096 s.flen.toNat) s
        = .next t ∧
      t.agenda = rest ∧ t.phase = .idle ∧ t.status.done = true ∧ t.status.err = false ∧
      t.nchunk.toNat = nchunks 4096 s.flen.toNat ∧
      t.received = s.received ++ (chunkSeq 4096 (frameOperand s)).flatMap bufferBeats

/-- R231: the block implements `encode_text_payload`: from the acceptance of ENCODE with at most 255 columns, with a
transport that answers `OK`, the buffers received are exactly `CHUNKSEQ(BUILDFRAME(line1, line2, cfg))`, in order. -/
def Obligations.EncodeSendsTheText : Prop :=
  ∀ (s : State) (rest : List Event), Inv s → s.phase = .exec → s.op = .encode →
    max s.len1.toNat s.len2.toNat ≤ 255 →
    s.agenda = .sequencer :: (readyForFrame (14 + max s.len1.toNat s.len2.toNat * 20) ++ rest) →
    ∃ (f : List Byte) (t : State) (n : Nat),
      buildFrame Config.hw s.cfg0 s.cfgFg s.cfgBg (line1Operand s) (line2Operand s) = .ok f ∧
      Host.Core.run Sys2Proof.core n s = .next t ∧
      t.agenda = rest ∧ t.phase = .idle ∧ t.status.done = true ∧
      t.received = s.received ++ (chunkSeq 4096 f).flatMap bufferBeats

/-- R232: ENCODE leaves what BUILD followed by CHUNK leaves, from the same idle state. (Only `OP`, which says which command
runs, and the model's draw counter differ.) On CapacityExceeded both end with the same error. -/
def Obligations.EncodeIsBuildThenChunk : Prop :=
  ∀ s : State, s.phase = .idle →
    ∃ e1 e2 b1 b2 : State,
      exec .encode s = .next e1 ∧ exec .encode e1 = .next e2 ∧
      exec .build s = .next b1 ∧ exec .build b1 = .next b2 ∧
      (b2.status.err = true → e2 = { b2 with op := .encode }) ∧
      (b2.status.err = false → ∃ c1 c2 : State,
        exec .chunk b2 = .next c1 ∧ exec .chunk c1 = .next c2 ∧
        e2 = { c2 with op := .encode, draws := e2.draws })

/-- R19: what a command computes depends only on its operands: two states that agree on them (all written, R39), whatever
else they hold, get the same frame, length and checksum from ENCODE and BUILD, and the same checksum from CRC and CHUNK. -/
def Obligations.ResultsDependOnOperandsOnly : Prop :=
  ∀ s s' t t' : State, s.phase = .exec → s'.phase = .exec →
    (s.len1 = s'.len1 → s.len2 = s'.len2 → s.cfg0 = s'.cfg0 → s.cfgFg = s'.cfgFg → s.cfgBg = s'.cfgBg →
      LinesWritten s →
      (∀ i, i < s.len1.toNat → Memory.read s.line1 i = Memory.read s'.line1 i) →
      (∀ i, i < s.len2.toNat → Memory.read s.line2 i = Memory.read s'.line2 i) →
      max s.len1.toNat s.len2.toNat ≤ 255 →
      (exec .build s = .next t → exec .build s' = .next t' →
        t.flen = t'.flen ∧ frameOperand t = frameOperand t') ∧
      (exec .encode s = .next t → exec .encode s' = .next t' →
        t.flen = t'.flen ∧ frameOperand t = frameOperand t' ∧ t.crc = t'.crc)) ∧
    (s.flen = s'.flen → FrameWritten s →
      (∀ j, j < s.flen.toNat → Memory.read s.fb j = Memory.read s'.fb j) → s.flen.toNat ≤ 5114 →
      (exec .crc s = .next t → exec .crc s' = .next t' → t.crc = t'.crc) ∧
      (exec .chunk s = .next t → exec .chunk s' = .next t' → t.crc = t'.crc ∧ frameOperand t = frameOperand t'))

/-! ## The host's accesses -/

/-- R61: the map, whole: a multiple of 4 is mapped exactly when it is the offset of a register or of a cell that exists. -/
def Obligations.AddressMapIsExact : Prop :=
  ∀ (off : Nat) (tgt : Target), off % 4 = 0 →
    (targetAt off = some tgt ↔ tgt.exists? = true ∧ tgt.offset = off)

/-- R65, R260: a write to any mapped offset made while `BUSY` = 1 is dropped; its one effect is `WERR` <- 1. `WERR` is set
by nothing else, and cleared by nothing but CLEAR or reset. -/
def Obligations.BusyWriteIsDropped : Prop :=
  (∀ (s : State) (off : Nat) (v : Word), s.status.busy = true → AccessLegal 32 off →
    stepOn (.hostWrite 32 off v) s = .next { s with status := { s.status with werr := true } }) ∧
  (∀ s t : State, step s = .next t →
    (s.status.werr = false → t.status.werr = true →
      s.status.busy = true ∧ ∃ off v, s.agenda.head? = some (.hostWrite 32 off v)) ∧
    (s.status.werr = true → t.status.werr = false →
      s.agenda.head? = some .reset ∨
      s.status.busy = false ∧ ∃ v, s.agenda.head? = some (.hostWrite 32 0x00 v) ∧ decode v = .ok .clear))

/-- R63: the effect of a write made while `BUSY` = 0, target by target. -/
def Obligations.IdleWriteEffects : Prop :=
  ∀ (s : State) (v : Word), s.status.busy = false →
    (∀ i, decode v = .ok i → stepOn (.hostWrite 32 0x00 v) s = exec i s) ∧
    (∀ e, decode v = .error e → stepOn (.hostWrite 32 0x00 v) s = .next (raise (.illegalCommand v) s)) ∧
    stepOn (.hostWrite 32 0x04 v) s = .next s ∧
    stepOn (.hostWrite 32 0x08 v) s = .next { s with len1 := v } ∧
    stepOn (.hostWrite 32 0x0C v) s = .next { s with len2 := v } ∧
    stepOn (.hostWrite 32 0x10 v) s = .next { s with cfg0 :=
      ⟨v.extractLsb' 0 8, v.extractLsb' 8 8, v.extractLsb' 16 8, v.extractLsb' 24 8⟩ } ∧
    stepOn (.hostWrite 32 0x14 v) s = .next { s with cfgFg :=
      ⟨v.extractLsb' 0 8, v.extractLsb' 8 8, v.extractLsb' 16 8⟩ } ∧
    stepOn (.hostWrite 32 0x18 v) s = .next { s with cfgBg :=
      ⟨v.extractLsb' 0 8, v.extractLsb' 8 8, v.extractLsb' 16 8⟩ } ∧
    stepOn (.hostWrite 32 0x1C v) s = .next { s with flen := v } ∧
    stepOn (.hostWrite 32 0x20 v) s = .next s ∧
    stepOn (.hostWrite 32 0x24 v) s = .next s ∧
    stepOn (.hostWrite 32 0x28 v) s = .next s ∧
    (∀ i, i ≤ 254 → ∃ m, stepOn (.hostWrite 32 (0x400 + 4 * i) v) s = .next { s with line1 := m } ∧
      ∀ j, Memory.read m j = if j = i then some (v.extractLsb' 0 21) else Memory.read s.line1 j) ∧
    (∀ i, i ≤ 254 → ∃ m, stepOn (.hostWrite 32 (0x800 + 4 * i) v) s = .next { s with line2 := m } ∧
      ∀ j, Memory.read m j = if j = i then some (v.extractLsb' 0 21) else Memory.read s.line2 j) ∧
    (∀ i, i < 5114 → ∃ m, stepOn (.hostWrite 32 (0x10000 + 4 * i) v) s = .next { s with fb := m } ∧
      ∀ j, Memory.read m j = if j = i then some (v.extractLsb' 0 8) else Memory.read s.fb j)

/-- R64: what a read made while `BUSY` = 0 returns, target by target; an unwritten cell's value is a draw of the cell's
width. No read changes the block (`reads` and `draws` are the model's own, log entries 3 and 5). -/
def Obligations.IdleReadValues : Prop :=
  ∀ s : State, s.status.busy = false →
    let answer (v : Word) : Result := .next { s with reads := s.reads ++ [v], draws := s.draws + 1 }
    stepOn (.hostRead 32 0x00) s = answer 0 ∧
    stepOn (.hostRead 32 0x04) s = answer (statusWord s.status) ∧
    stepOn (.hostRead 32 0x08) s = answer s.len1 ∧
    stepOn (.hostRead 32 0x0C) s = answer s.len2 ∧
    stepOn (.hostRead 32 0x10) s = answer (cfg0Word s.cfg0) ∧
    stepOn (.hostRead 32 0x14) s = answer (rgbWord s.cfgFg) ∧
    stepOn (.hostRead 32 0x18) s = answer (rgbWord s.cfgBg) ∧
    stepOn (.hostRead 32 0x1C) s = answer s.flen ∧
    stepOn (.hostRead 32 0x20) s = answer s.crc ∧
    stepOn (.hostRead 32 0x24) s = answer s.nchunk ∧
    stepOn (.hostRead 32 0x28) s = answer s.errInfo ∧
    (∀ i, i ≤ 254 → ∃ c : Code, stepOn (.hostRead 32 (0x400 + 4 * i)) s = answer (c.setWidth 32) ∧
      ∀ x, Memory.read s.line1 i = some x → c = x) ∧
    (∀ i, i ≤ 254 → ∃ c : Code, stepOn (.hostRead 32 (0x800 + 4 * i)) s = answer (c.setWidth 32) ∧
      ∀ x, Memory.read s.line2 i = some x → c = x) ∧
    (∀ j, j < 5114 → ∃ b : Byte, stepOn (.hostRead 32 (0x10000 + 4 * j)) s = answer (b.setWidth 32) ∧
      ∀ x, Memory.read s.fb j = some x → b = x)

/-- R66: what a read made while `BUSY` = 1 returns: exact for `STATUS`, the operands and the configuration, 0 for `CMD`
and `ERRINFO`, and some 32-bit value, with no change to the block, for `FLEN`, `CRC`, `NCHUNK` and `FB[j]`. -/
def Obligations.BusyReadValues : Prop :=
  ∀ s : State, s.status.busy = true →
    let answer (v : Word) : Result := .next { s with reads := s.reads ++ [v], draws := s.draws + 1 }
    stepOn (.hostRead 32 0x00) s = answer 0 ∧
    stepOn (.hostRead 32 0x04) s = answer (statusWord s.status) ∧
    stepOn (.hostRead 32 0x08) s = answer s.len1 ∧
    stepOn (.hostRead 32 0x0C) s = answer s.len2 ∧
    stepOn (.hostRead 32 0x10) s = answer (cfg0Word s.cfg0) ∧
    stepOn (.hostRead 32 0x14) s = answer (rgbWord s.cfgFg) ∧
    stepOn (.hostRead 32 0x18) s = answer (rgbWord s.cfgBg) ∧
    stepOn (.hostRead 32 0x28) s = answer 0 ∧
    (∀ off, off = 0x1C ∨ off = 0x20 ∨ off = 0x24 ∨ (∃ j, j < 5114 ∧ off = 0x10000 + 4 * j) →
      ∃ v, stepOn (.hostRead 32 off) s = answer v) ∧
    (∀ i, i ≤ 254 → ∃ c : Code, stepOn (.hostRead 32 (0x400 + 4 * i)) s = answer (c.setWidth 32) ∧
      ∀ x, Memory.read s.line1 i = some x → c = x) ∧
    (∀ i, i ≤ 254 → ∃ c : Code, stepOn (.hostRead 32 (0x800 + 4 * i)) s = answer (c.setWidth 32) ∧
      ∀ x, Memory.read s.line2 i = some x → c = x)

/-- After R67: an access of another width, at an offset that is not a multiple of 4, or at an unmapped offset is refused,
whether the block is busy or not: it returns no value and is not silently ignored. R67 says only that the model must refuse
it; which name refuses which access, and that the width comes before the alignment and both before the map, are the model's
choice (log entry 8, DESIGN CHOICE). -/
def Obligations.MeaninglessAccessStops : Prop :=
  ∀ (s : State) (width off : Nat) (v : Word),
    (width ≠ 32 → stepOn (.hostRead width off) s = .refused (.accessWidth width) ∧
      stepOn (.hostWrite width off v) s = .refused (.accessWidth width)) ∧
    (off % 4 ≠ 0 → stepOn (.hostRead 32 off) s = .refused (.misalignedOffset off) ∧
      stepOn (.hostWrite 32 off v) s = .refused (.misalignedOffset off)) ∧
    (off % 4 = 0 → targetAt off = none → stepOn (.hostRead 32 off) s = .refused (.unmappedOffset off) ∧
      stepOn (.hostWrite 32 off v) s = .refused (.unmappedOffset off))

/-- R255, R67: nothing else stops: a step answers a next state exactly when the next move is no meaningless access. -/
def Obligations.OnlyMeaninglessAccessStops : Prop :=
  ∀ s : State, (∃ t, step s = .next t) ↔ ∀ e, s.agenda.head? = some e → MoveLegal e

/-- R24 to R27: the fields of the register words at their bit positions; a write takes the fields from the same positions,
so what is written to a configuration register is what is read back, bits 31:24 of a colour apart, which "read as 0 and
ignore writes". -/
def Obligations.RegisterFields : Prop :=
  (∀ st : Status, (statusWord st).getLsbD 0 = st.busy ∧ (statusWord st).getLsbD 1 = st.done ∧
    (statusWord st).getLsbD 2 = st.err ∧ (statusWord st).getLsbD 3 = st.werr ∧
    (statusWord st).extractLsb' 4 4 = st.errCode ∧ (statusWord st).extractLsb' 8 24 = 0#24) ∧
  (∀ c : Cfg0, (cfg0Word c).extractLsb' 0 8 = c.mode ∧ (cfg0Word c).extractLsb' 8 8 = c.speed ∧
    (cfg0Word c).extractLsb' 16 8 = c.colorMode ∧ (cfg0Word c).extractLsb' 24 8 = c.bgMode) ∧
  (∀ c : Rgb, (rgbWord c).extractLsb' 0 8 = c.r ∧ (rgbWord c).extractLsb' 8 8 = c.g ∧
    (rgbWord c).extractLsb' 16 8 = c.b ∧ (rgbWord c).extractLsb' 24 8 = 0#8) ∧
  (∀ v : Word, cfg0Word (cfg0OfWord v) = v ∧ rgbWord (rgbOfWord v) = v &&& 0x00FFFFFF#32) ∧
  (∀ c : Cfg0, cfg0OfWord (cfg0Word c) = c) ∧ (∀ c : Rgb, rgbOfWord (rgbWord c) = c)

/-! ## Reset and the invariants -/

/-- R38: the state after reset, for every value the rule gives. -/
def Obligations.ResetValues : Prop :=
  statusWord State.reset.status = 0 ∧ State.reset.errInfo = 0 ∧
  State.reset.len1 = 0 ∧ State.reset.len2 = 0 ∧
  State.reset.cfg0 = ⟨Config.hw.defMode, Config.hw.defSpeed, Config.hw.defColorMode, Config.hw.defBgMode⟩ ∧
  State.reset.cfgFg = ⟨255, 255, 0⟩ ∧ State.reset.cfgBg = Config.hw.defBg ∧
  State.reset.flen = 0 ∧ State.reset.crc = 0 ∧ State.reset.nchunk = 0 ∧ State.reset.phase = .idle ∧
  (∀ i, Memory.read State.reset.line1 i = none) ∧ (∀ i, Memory.read State.reset.line2 i = none) ∧
  (∀ j, Memory.read State.reset.fb j = none) ∧ txValid State.reset = false

/-- R280, R281: reset may occur in any state, also during a command, and puts the block at the state of R38; what the
transport has received stays received. (What `OP`, `K` and `POS` hold and what the environment's part keeps are the
model's choices, log entries 3 to 5 and 7.) -/
def Obligations.ResetFromAnyState : Prop :=
  ∀ s : State, stepOn .reset s = .next { State.reset with
    agenda := s.agenda, reads := s.reads, received := s.received, draws := s.draws }

/-- R35: the invariants hold after reset. That the buffers are in canonical form, by strictly rising index, is the model's
own form of them and no rule's (log entry 13, DESIGN CHOICE); that their cells lie inside their sizes is R23 and R30. -/
def Obligations.InvariantsHoldAtReset : Prop := Inv State.reset ∧ BuffersWf State.reset

/-- R35 (a) to (e): every step keeps the invariants, from every state that meets them. -/
def Obligations.StepKeepsTheInvariants : Prop :=
  ∀ s t : State, Inv s → step s = .next t → Inv t

/-- R23, R30: every step keeps the buffers inside their sizes; so no frame ever overruns `FB`. The canonical form it keeps
too, cells by strictly rising index, is the model's own form of a buffer and no rule's (log entry 13, DESIGN CHOICE). -/
def Obligations.StepKeepsTheBuffersCanonical : Prop :=
  ∀ s t : State, BuffersWf s → step s = .next t → BuffersWf t

/-- R35 (f): while `BUSY` is 1 no step but reset changes the operands or the configuration, and `FB` and `FLEN` change
only in the `EXEC` step of BUILD or ENCODE. -/
def Obligations.OperandsStandStillWhileBusy : Prop :=
  ∀ s t : State, Inv s → s.status.busy = true → s.agenda.head? ≠ some .reset → step s = .next t →
    t.len1 = s.len1 ∧ t.len2 = s.len2 ∧ t.line1 = s.line1 ∧ t.line2 = s.line2 ∧
    t.cfg0 = s.cfg0 ∧ t.cfgFg = s.cfgFg ∧ t.cfgBg = s.cfgBg ∧
    (t.fb ≠ s.fb ∨ t.flen ≠ s.flen →
      s.phase = .exec ∧ (s.op = .build ∨ s.op = .encode) ∧
      (s.agenda = [] ∨ s.agenda.head? = some .sequencer))

/-- R223: every change of `PHASE` is one of the table's, with its event. That a step on an empty agenda is the sequencer's
move, so that the rows out of `EXEC` admit it, is the model's choice (log entry 4, DESIGN CHOICE). -/
def Obligations.PhaseTransitions : Prop :=
  ∀ s t : State, Inv s → step s = .next t → t.phase ≠ s.phase →
    s.agenda.head? = some .reset ∧ t.phase = .idle ∨
    s.phase = .idle ∧ t.phase = .exec ∧
      (∃ v, s.agenda.head? = some (.hostWrite 32 0x00 v) ∧ decode v = .ok t.op.instr) ∨
    s.phase = .exec ∧ (s.agenda = [] ∨ s.agenda.head? = some .sequencer) ∧
      (t.phase = .idle ∧ t.status.done = true ∧ (s.op = .build ∨ s.op = .crc) ∨
       t.phase = .idle ∧ t.status.err = true ∧ (t.status.errCode = 1 ∨ t.status.errCode = 4) ∨
       t.phase = .emit ∧ t.k = 0 ∧ t.pos = 0 ∧ (s.op = .chunk ∨ s.op = .encode)) ∨
    s.phase = .emit ∧ t.phase = .resp ∧ s.pos + 1 = bufLenAt s s.k ∧
      (∃ vld ok, s.agenda.head? = some (.transport true vld ok)) ∨
    s.phase = .resp ∧ ∃ rdy ok, s.agenda.head? = some (.transport rdy true ok) ∧
      (ok = true ∧ t.phase = .emit ∧ t.k = s.k + 1 ∧ t.pos = 0 ∧ t.k < nchunks 4096 s.flen.toNat ∨
       ok = true ∧ t.phase = .idle ∧ t.status.done = true ∧ s.k + 1 = nchunks 4096 s.flen.toNat ∨
       ok = false ∧ t.phase = .idle ∧ t.status.err = true)
end

