-- ==== Sys2Proof/Laws/Functions.lean ====
section
/-! SUPPORT. Laws/Functions.lean: the configuration of this hardware and the reference configuration are
inside the spec (R7 to R9, R198), and the small laws of the functions of Machine/Wire.lean to Machine/Splitter.lean:
lengths, bounds and the two forms of each check. -/

namespace Sys2Proof.Machine

/-! ## The configuration -/

theorem hw_charWidth : Config.hw.charWidth = 21 := rfl
@[simp] theorem hw_glyphSize : Config.hw.glyphSize = 8 := by decide
@[simp] theorem hw_chunkSize : Config.hw.chunkSize = 4096 := by decide
@[simp] theorem hw_colLen : Config.hw.colLen = 20 := by decide
@[simp] theorem hw_fbSize : Config.hw.fbSize = 5114 := by decide

/-- The configuration of this hardware is one the spec admits, whatever its open tables hold. -/
theorem hw_wellFormed : Config.hw.WellFormed where
  charWidth_ge := by decide
  charWidth_le := by decide
  glyphSize_pos := by simp
  glyphSize_le := by simp
  chunkSize_pos := by simp
  chunkSize_le := by simp
  fbSize_lt := by simp
  space_defined := by simp [Config.hw]
  glyph_length := by
    intro c g h
    simp only [Config.hw] at h
    split at h
    · simp only [Option.some.injEq] at h
      simp [← h]
    · obtain ⟨v, -, rfl⟩ := Option.map_eq_some_iff.1 h
      simp

/-- Every glyph of `TESTGT` has 8 bytes (R9). -/
theorem length_testGlyphs {c : BitVec 21} {g : List Byte} (h : Config.testGlyphs c = some g) : g.length = 8 := by
  unfold Config.testGlyphs at h
  split at h
  · simp [← Option.some.inj h]
  · cases h

/-- The reference configuration of the test vectors is one the spec admits (R9). -/
theorem reference_wellFormed : Config.reference.WellFormed where
  charWidth_ge := by decide
  charWidth_le := by decide
  glyphSize_pos := by decide
  glyphSize_le := by decide
  chunkSize_pos := by decide
  chunkSize_le := by decide
  fbSize_lt := by decide
  space_defined := by decide
  glyph_length := fun _ _ h => length_testGlyphs h

/-! ## Lookup, columns, frames -/

/-- Every lookup gives a glyph of `G` bytes (R132). -/
theorem length_lookup {cfg : Config} (h : cfg.WellFormed) (c : cfg.Code) : (lookup cfg c).length = cfg.glyphSize := by
  unfold lookup
  cases hc : cfg.glyphTable c with
  | some g => exact h.glyph_length c g hc
  | none =>
    obtain ⟨g, hg⟩ := Option.isSome_iff_exists.1 h.space_defined
    simpa [hg] using h.glyph_length _ g hg

@[simp] theorem length_colHdr : colHdr.length = 4 := rfl
@[simp] theorem length_chunkTag : chunkTag.length = 2 := rfl
@[simp] theorem length_chunkTrailer : chunkTrailer.length = 3 := rfl
@[simp] theorem length_le16 (v : BitVec 16) : (le16 v).length = 2 := rfl
@[simp] theorem length_le32 (v : Word) : (le32 v).length = 4 := rfl
@[simp] theorem length_textHdr (n : Nat) (c : Cfg0) (fg bg : Rgb) : (textHdr n c fg bg).length = 14 := rfl

theorem length_column {cfg : Config} (h : cfg.WellFormed) (l1 l2 : List cfg.Code) (i : Nat) :
    (column cfg l1 l2 i).length = cfg.colLen := by
  simp [column, length_lookup h, Config.colLen]
  omega

/-- `ASSEMBLE` gives N·COLLEN bytes (R142). -/
theorem length_assemble {cfg : Config} (h : cfg.WellFormed) (l1 l2 : List cfg.Code) :
    (assemble cfg l1 l2).length = max l1.length l2.length * cfg.colLen := by
  simp [assemble, List.length_flatMap, length_column h]

/-- The length law (R155), of the two parts `BUILDFRAME` puts together. -/
theorem length_frame {cfg : Config} (h : cfg.WellFormed) (n : Nat) (c : Cfg0) (fg bg : Rgb) (l1 l2 : List cfg.Code) :
    (textHdr n c fg bg ++ assemble cfg l1 l2).length = frameLen cfg (max l1.length l2.length) := by
  rw [List.length_append, length_textHdr, length_assemble h, frameLen, Config.colLen]

@[simp] theorem hw_frameLen (n : Nat) : frameLen Config.hw n = 14 + n * 20 := by simp [frameLen]

/-- The capacity of `FB` is the length of the largest frame (R154 (c), R155). -/
theorem fbSize_eq (cfg : Config) : cfg.fbSize = frameLen cfg Config.nMax := rfl

@[simp] theorem length_line1Operand (s : State) : (line1Operand s).length = s.len1.toNat := by
  simp [line1Operand]

@[simp] theorem length_line2Operand (s : State) : (line2Operand s).length = s.len2.toNat := by
  simp [line2Operand]

@[simp] theorem length_frameOperand (s : State) : (frameOperand s).length = s.flen.toNat := by
  simp [frameOperand]

theorem colCount_ok_iff {a b n : Nat} : colCount a b = .ok n ↔ n = max a b ∧ max a b ≤ 255 := by
  unfold colCount
  split <;> rename_i h
  · constructor
    · intro h; simp at h
    · rintro ⟨-, h2⟩; simp only [Config.nMax] at h; omega
  · simp only [Config.nMax] at h
    simp only [Except.ok.injEq]
    omega

theorem colCount_error_iff {a b : Nat} {e : CmdError} :
    colCount a b = .error e ↔ e = .capacityExceeded (max a b) ∧ 255 < max a b := by
  unfold colCount
  split <;> rename_i h <;> simp only [Config.nMax] at h
  · simp [h, eq_comm]
  · simp; omega

theorem checkFlen_ok_iff {f : Word} {n : Nat} : checkFlen f = .ok n ↔ n = f.toNat ∧ f.toNat ≤ 5114 := by
  unfold checkFlen
  split <;> rename_i h <;> simp only [hw_fbSize] at h
  · simp; omega
  · simp [eq_comm]; omega

theorem checkFlen_error_iff {f : Word} {e : CmdError} :
    checkFlen f = .error e ↔ e = .frameRange f ∧ 5114 < f.toNat := by
  unfold checkFlen
  split <;> rename_i h <;> simp only [hw_fbSize] at h
  · simp [h, eq_comm]
  · simp; omega

/-- The composed frame has 14 + 20·N bytes (R155). -/
theorem length_composeFrame (s : State) (n : Nat) :
    (composeFrame n s).length = 14 + max s.len1.toNat s.len2.toNat * 20 := by
  simp [composeFrame, length_frame hw_wellFormed]

/-- Every frame the machine builds fits `FB` (R154 (c)). -/
theorem length_composeFrame_le {s : State} {n : Nat} (h : colCount s.len1.toNat s.len2.toNat = .ok n) :
    (composeFrame n s).length ≤ 5114 := by
  have := (colCount_ok_iff.1 h).2
  rw [length_composeFrame]
  omega

/-- The machine's frame is `BUILDFRAME` of its operands (R154, R156). -/
theorem buildFrame_operands {s : State} {n : Nat} (h : colCount s.len1.toNat s.len2.toNat = .ok n) :
    buildFrame Config.hw s.cfg0 s.cfgFg s.cfgBg (line1Operand s) (line2Operand s) = .ok (composeFrame n s) := by
  simp [buildFrame, h, composeFrame]

/-! ## Chunks -/

@[simp] theorem length_headerBytes (sl k len : Nat) (crc : Word) : (headerBytes sl k len crc).length = 16 := rfl

theorem length_slice (c : Nat) (s : List Byte) (k : Nat) :
    (slice c s k).length = min c (s.length - k * c) := by
  have : (k + 1) * c = k * c + c := by ring
  simp only [slice, seqSlice, List.length_drop, List.length_take, this]
  omega

theorem nchunks_pos {c : Nat} (hc : 1 ≤ c) (len : Nat) : 1 ≤ nchunks c len := by
  unfold nchunks ceilDiv
  split
  · exact le_rfl
  · rw [Nat.one_le_div_iff (by omega)]
    omega

/-- A chunk index is in range exactly when its slice starts inside the frame, or it is the first (R185). -/
theorem lt_nchunks_iff {c : Nat} (hc : 1 ≤ c) (len k : Nat) : k < nchunks c len ↔ k = 0 ∨ k * c < len := by
  unfold nchunks ceilDiv
  split <;> rename_i h
  · subst h; simp
  · rw [Nat.lt_iff_add_one_le, Nat.le_div_iff_mul_le (by omega)]
    have : (k + 1) * c = k * c + c := by ring
    rcases Nat.eq_zero_or_pos k with rfl | hk
    · simp; omega
    · omega

theorem nchunks_hw_le {len : Nat} (h : len ≤ 5114) : nchunks 4096 len ≤ 2 := by
  unfold nchunks ceilDiv
  split <;> omega

theorem sliceLenAt_eq (s : State) (k : Nat) : sliceLenAt s k = (slice 4096 (frameOperand s) k).length := by
  simp [sliceLenAt, length_slice]

theorem bufLenAt_eq (s : State) (k : Nat) : bufLenAt s k = (chunkBuf 4096 (frameOperand s) k).length := by
  simp [bufLenAt, chunkBuf, chunkHdr, sliceLenAt_eq, hdrLen]

theorem bufLenAt_pos (s : State) (k : Nat) : 16 ≤ bufLenAt s k := by
  simp [bufLenAt, hdrLen]

end Sys2Proof.Machine
end

