-- ==== Sys2Proof/Laws/AddressMap.lean ====
section
/-! SUPPORT. Laws/AddressMap.lean: an access to a cell of a buffer reaches that cell (R61). -/

namespace Sys2Proof.Machine

theorem targetAt_line1 {i : Nat} (h : i < 255) : targetAt (0x400 + 4 * i) = some (.line1 i) := by
  simp only [targetAt, Config.lineDepth]
  rw [if_neg (by omega), if_pos (by omega)]
  simp

theorem targetAt_line2 {i : Nat} (h : i < 255) : targetAt (0x800 + 4 * i) = some (.line2 i) := by
  simp only [targetAt, Config.lineDepth]
  rw [if_neg (by omega), if_neg (by omega), if_neg (by omega), if_pos (by omega)]
  simp

theorem targetAt_fb {j : Nat} (h : j < 5114) : targetAt (0x10000 + 4 * j) = some (.fb j) := by
  simp only [targetAt, Config.lineDepth, hw_fbSize]
  rw [if_neg (by omega), if_neg (by omega), if_neg (by omega), if_neg (by omega), if_neg (by omega),
    if_pos (by omega)]
  simp

theorem hostAccess_line1 {i : Nat} (h : i < 255) (act : Target → Result) :
    hostAccess 32 (0x400 + 4 * i) act = act (.line1 i) := by
  simp [hostAccess, targetAt_line1 h, show (1024 + 4 * i) % 4 = 0 by omega]

theorem hostAccess_line2 {i : Nat} (h : i < 255) (act : Target → Result) :
    hostAccess 32 (0x800 + 4 * i) act = act (.line2 i) := by
  simp [hostAccess, targetAt_line2 h, show (2048 + 4 * i) % 4 = 0 by omega]

theorem hostAccess_fb {j : Nat} (h : j < 5114) (act : Target → Result) :
    hostAccess 32 (0x10000 + 4 * j) act = act (.fb j) := by
  simp [hostAccess, targetAt_fb h, show (65536 + 4 * j) % 4 = 0 by omega]

end Sys2Proof.Machine
end

