-- ==== Sys2Proof/Laws/Memory.lean ====
section
/-! SUPPORT. Laws/Memory.lean: what a write of a buffer does to every later read, and that it keeps the canonical form. -/

namespace Sys2Proof.Machine

variable {α : Type}

@[simp] theorem Memory.read_nil (j : Nat) : Memory.read ([] : List (Nat × α)) j = none := rfl

theorem Memory.read_append (m m' : List (Nat × α)) (j : Nat) :
    Memory.read (m ++ m') j = (Memory.read m j).or (Memory.read m' j) := by
  induction m with
  | nil => simp
  | cons c m ih =>
    obtain ⟨i, x⟩ := c
    by_cases h : i = j <;> simp [Memory.read, h, ih]

theorem Memory.read_filter (p : Nat → Bool) (m : List (Nat × α)) (j : Nat) :
    Memory.read (m.filter fun c => p c.1) j = if p j then Memory.read m j else none := by
  induction m with
  | nil => simp
  | cons c m ih =>
    obtain ⟨i, x⟩ := c
    by_cases hp : p i = true
    · by_cases h : i = j
      · subst h; simp [Memory.read, hp]
      · simp [Memory.read, hp, h, ih]
    · by_cases h : i = j
      · subst h; simp [hp, ih]
      · simp [Memory.read, hp, h, ih]

theorem Memory.read_cellsFrom (s : List α) (a j : Nat) :
    Memory.read (Memory.cellsFrom a s) j = if a ≤ j then s[j - a]? else none := by
  induction s generalizing a with
  | nil => simp [Memory.cellsFrom]
  | cons x s ih =>
    by_cases h : a = j
    · subst h; simp [Memory.cellsFrom, Memory.read]
    · by_cases hle : a ≤ j
      · have h1 : a + 1 ≤ j := by omega
        have h2 : j - a = (j - (a + 1)) + 1 := by omega
        simp [Memory.cellsFrom, Memory.read, h, ih, hle, h1, h2]
      · have h1 : ¬ a + 1 ≤ j := by omega
        simp [Memory.cellsFrom, Memory.read, h, ih, hle, h1]

/-- A range write, read back: the new elements inside the range, the old cells outside it. -/
theorem Memory.read_writeRange (a : Nat) (s : List α) (m : List (Nat × α)) (j : Nat) :
    Memory.read (Memory.writeRange a s m) j =
      if a ≤ j ∧ j < a + s.length then s[j - a]? else Memory.read m j := by
  unfold Memory.writeRange
  rw [Memory.read_append, Memory.read_append, Memory.read_cellsFrom,
    Memory.read_filter (fun i => decide (i < a)), Memory.read_filter (fun i => decide (a + s.length ≤ i))]
  by_cases h1 : a ≤ j
  · by_cases h2 : j < a + s.length
    · have h3 : ¬ j < a := by omega
      have h4 : ¬ a + s.length ≤ j := by omega
      simp [h1, h2, h3, h4]
    · have h3 : ¬ j < a := by omega
      have h4 : a + s.length ≤ j := by omega
      have h5 : s[j - a]? = none := by simp; omega
      simp [h1, h2, h3, h4, h5]
  · have h3 : j < a := by omega
    have h4 : ¬ a + s.length ≤ j := by omega
    simp [h1, h3, h4]

/-- A cell write, read back. -/
theorem Memory.read_write (i : Nat) (x : α) (m : List (Nat × α)) (j : Nat) :
    Memory.read (Memory.write i x m) j = if j = i then some x else Memory.read m j := by
  unfold Memory.write
  rw [Memory.read_writeRange]
  by_cases h : j = i
  · subst h; simp
  · rw [if_neg (by simp only [List.length_singleton]; omega), if_neg h]

theorem Memory.mem_cellsFrom {s : List α} {a : Nat} {c : Nat × α} (h : c ∈ Memory.cellsFrom a s) :
    a ≤ c.1 ∧ c.1 < a + s.length := by
  induction s generalizing a with
  | nil => simp [Memory.cellsFrom] at h
  | cons x s ih =>
    simp only [Memory.cellsFrom, List.mem_cons] at h
    rcases h with rfl | h
    · simp
    · have := ih h; simp only [List.length_cons]; omega

theorem Memory.pairwise_cellsFrom (s : List α) (a : Nat) :
    (Memory.cellsFrom a s).Pairwise (fun c d => c.1 < d.1) := by
  induction s generalizing a with
  | nil => simp [Memory.cellsFrom]
  | cons x s ih =>
    simp only [Memory.cellsFrom, List.pairwise_cons]
    exact ⟨fun c hc => by have := Memory.mem_cellsFrom hc; omega, ih _⟩

theorem Memory.wf_nil (size : Nat) : Memory.wf size ([] : List (Nat × α)) := by
  simp [Memory.wf]

/-- A range write inside the buffer keeps the canonical form. -/
theorem Memory.wf_writeRange {size a : Nat} {s : List α} {m : List (Nat × α)} (h : Memory.wf size m)
    (hle : a + s.length ≤ size) : Memory.wf size (Memory.writeRange a s m) := by
  obtain ⟨hp, hb⟩ := h
  unfold Memory.writeRange
  refine ⟨?_, ?_⟩
  · rw [List.pairwise_append, List.pairwise_append]
    refine ⟨⟨hp.filter _, Memory.pairwise_cellsFrom s a, ?_⟩, hp.filter _, ?_⟩
    · intro c hc d hd
      have h1 := (List.mem_filter.1 hc).2
      have h2 := Memory.mem_cellsFrom hd
      simp at h1
      omega
    · intro c hc d hd
      have h2 := (List.mem_filter.1 hd).2
      simp at h2
      rcases List.mem_append.1 hc with hc | hc
      · have h1 := (List.mem_filter.1 hc).2
        simp at h1
        omega
      · have h1 := Memory.mem_cellsFrom hc
        omega
  · intro c hc
    rcases List.mem_append.1 hc with hc | hc
    · rcases List.mem_append.1 hc with hc | hc
      · exact hb c (List.mem_filter.1 hc).1
      · have h1 := Memory.mem_cellsFrom hc
        omega
    · exact hb c (List.mem_filter.1 hc).1

/-- A cell write inside the buffer keeps the canonical form. -/
theorem Memory.wf_write {size i : Nat} {x : α} {m : List (Nat × α)} (h : Memory.wf size m) (hi : i < size) :
    Memory.wf size (Memory.write i x m) :=
  Memory.wf_writeRange h (by simp; omega)

end Sys2Proof.Machine
end

