-- ==== Sys2Proof/Laws/PerInstr.lean ====
section
/-! SUPPORT. Laws/PerInstr.lean: the statements made per instruction (LAWS.json): family Codes, the command words of
30_encoding.md R90 to R92. -/

namespace Sys2Proof.Laws.Codes

/-- The command's word is well formed (R90: bits 31:8 are 0), names its command in the table's numbering of the bits, and
is the word of no other command (R92). -/
def Statement (i : Instr) : Prop :=
  i.wellFormed = true ∧ zeroField (encode i) = 0 ∧ opcField (encode i) = i.opc ∧
  decodeTableWord 32 (encode i).toNat = some i

theorem nop : Statement .nop := by unfold Statement; decide
theorem build : Statement .build := by unfold Statement; decide
theorem crc : Statement .crc := by unfold Statement; decide
theorem chunk : Statement .chunk := by unfold Statement; decide
theorem encode : Statement .encode := by unfold Statement; decide
theorem clear : Statement .clear := by unfold Statement; decide

end Sys2Proof.Laws.Codes
end

