-- ==== Sys2Proof/Laws/State.lean ====
section
/-! SUPPORT. Laws/State.lean: one lemma per field per shared update of the state, each true by rfl, so that no proof
unfolds a record update. -/

namespace Sys2Proof.Machine

/-! ## accept -/

@[simp] theorem accept_status (op : Op) (s : State) : (accept op s).status = s.status.accepted := rfl
@[simp] theorem accept_errInfo (op : Op) (s : State) : (accept op s).errInfo = 0 := rfl
@[simp] theorem accept_len1 (op : Op) (s : State) : (accept op s).len1 = s.len1 := rfl
@[simp] theorem accept_len2 (op : Op) (s : State) : (accept op s).len2 = s.len2 := rfl
@[simp] theorem accept_line1 (op : Op) (s : State) : (accept op s).line1 = s.line1 := rfl
@[simp] theorem accept_line2 (op : Op) (s : State) : (accept op s).line2 = s.line2 := rfl
@[simp] theorem accept_cfg0 (op : Op) (s : State) : (accept op s).cfg0 = s.cfg0 := rfl
@[simp] theorem accept_cfgFg (op : Op) (s : State) : (accept op s).cfgFg = s.cfgFg := rfl
@[simp] theorem accept_cfgBg (op : Op) (s : State) : (accept op s).cfgBg = s.cfgBg := rfl
@[simp] theorem accept_flen (op : Op) (s : State) : (accept op s).flen = s.flen := rfl
@[simp] theorem accept_fb (op : Op) (s : State) : (accept op s).fb = s.fb := rfl
@[simp] theorem accept_crc (op : Op) (s : State) : (accept op s).crc = s.crc := rfl
@[simp] theorem accept_nchunk (op : Op) (s : State) : (accept op s).nchunk = s.nchunk := rfl
@[simp] theorem accept_phase (op : Op) (s : State) : (accept op s).phase = .exec := rfl
@[simp] theorem accept_op (op : Op) (s : State) : (accept op s).op = op := rfl
@[simp] theorem accept_k (op : Op) (s : State) : (accept op s).k = s.k := rfl
@[simp] theorem accept_pos (op : Op) (s : State) : (accept op s).pos = s.pos := rfl
@[simp] theorem accept_agenda (op : Op) (s : State) : (accept op s).agenda = s.agenda := rfl
@[simp] theorem accept_reads (op : Op) (s : State) : (accept op s).reads = s.reads := rfl
@[simp] theorem accept_received (op : Op) (s : State) : (accept op s).received = s.received := rfl
@[simp] theorem accept_draws (op : Op) (s : State) : (accept op s).draws = s.draws := rfl

/-! ## goodEnd -/

@[simp] theorem goodEnd_status (s : State) : (goodEnd s).status = s.status.goodEnd := rfl
@[simp] theorem goodEnd_errInfo (s : State) : (goodEnd s).errInfo = s.errInfo := rfl
@[simp] theorem goodEnd_len1 (s : State) : (goodEnd s).len1 = s.len1 := rfl
@[simp] theorem goodEnd_len2 (s : State) : (goodEnd s).len2 = s.len2 := rfl
@[simp] theorem goodEnd_line1 (s : State) : (goodEnd s).line1 = s.line1 := rfl
@[simp] theorem goodEnd_line2 (s : State) : (goodEnd s).line2 = s.line2 := rfl
@[simp] theorem goodEnd_cfg0 (s : State) : (goodEnd s).cfg0 = s.cfg0 := rfl
@[simp] theorem goodEnd_cfgFg (s : State) : (goodEnd s).cfgFg = s.cfgFg := rfl
@[simp] theorem goodEnd_cfgBg (s : State) : (goodEnd s).cfgBg = s.cfgBg := rfl
@[simp] theorem goodEnd_flen (s : State) : (goodEnd s).flen = s.flen := rfl
@[simp] theorem goodEnd_fb (s : State) : (goodEnd s).fb = s.fb := rfl
@[simp] theorem goodEnd_crc (s : State) : (goodEnd s).crc = s.crc := rfl
@[simp] theorem goodEnd_nchunk (s : State) : (goodEnd s).nchunk = s.nchunk := rfl
@[simp] theorem goodEnd_phase (s : State) : (goodEnd s).phase = .idle := rfl
@[simp] theorem goodEnd_op (s : State) : (goodEnd s).op = s.op := rfl
@[simp] theorem goodEnd_k (s : State) : (goodEnd s).k = s.k := rfl
@[simp] theorem goodEnd_pos (s : State) : (goodEnd s).pos = s.pos := rfl
@[simp] theorem goodEnd_agenda (s : State) : (goodEnd s).agenda = s.agenda := rfl
@[simp] theorem goodEnd_reads (s : State) : (goodEnd s).reads = s.reads := rfl
@[simp] theorem goodEnd_received (s : State) : (goodEnd s).received = s.received := rfl
@[simp] theorem goodEnd_draws (s : State) : (goodEnd s).draws = s.draws := rfl

/-! ## raise -/

@[simp] theorem raise_status (e : CmdError) (s : State) : (raise e s).status = s.status.raised e := rfl
@[simp] theorem raise_errInfo (e : CmdError) (s : State) : (raise e s).errInfo = e.info := rfl
@[simp] theorem raise_len1 (e : CmdError) (s : State) : (raise e s).len1 = s.len1 := rfl
@[simp] theorem raise_len2 (e : CmdError) (s : State) : (raise e s).len2 = s.len2 := rfl
@[simp] theorem raise_line1 (e : CmdError) (s : State) : (raise e s).line1 = s.line1 := rfl
@[simp] theorem raise_line2 (e : CmdError) (s : State) : (raise e s).line2 = s.line2 := rfl
@[simp] theorem raise_cfg0 (e : CmdError) (s : State) : (raise e s).cfg0 = s.cfg0 := rfl
@[simp] theorem raise_cfgFg (e : CmdError) (s : State) : (raise e s).cfgFg = s.cfgFg := rfl
@[simp] theorem raise_cfgBg (e : CmdError) (s : State) : (raise e s).cfgBg = s.cfgBg := rfl
@[simp] theorem raise_flen (e : CmdError) (s : State) : (raise e s).flen = s.flen := rfl
@[simp] theorem raise_fb (e : CmdError) (s : State) : (raise e s).fb = s.fb := rfl
@[simp] theorem raise_crc (e : CmdError) (s : State) : (raise e s).crc = s.crc := rfl
@[simp] theorem raise_nchunk (e : CmdError) (s : State) : (raise e s).nchunk = s.nchunk := rfl
@[simp] theorem raise_phase (e : CmdError) (s : State) : (raise e s).phase = .idle := rfl
@[simp] theorem raise_op (e : CmdError) (s : State) : (raise e s).op = s.op := rfl
@[simp] theorem raise_k (e : CmdError) (s : State) : (raise e s).k = s.k := rfl
@[simp] theorem raise_pos (e : CmdError) (s : State) : (raise e s).pos = s.pos := rfl
@[simp] theorem raise_agenda (e : CmdError) (s : State) : (raise e s).agenda = s.agenda := rfl
@[simp] theorem raise_reads (e : CmdError) (s : State) : (raise e s).reads = s.reads := rfl
@[simp] theorem raise_received (e : CmdError) (s : State) : (raise e s).received = s.received := rfl
@[simp] theorem raise_draws (e : CmdError) (s : State) : (raise e s).draws = s.draws := rfl

/-! ## emitStart -/

@[simp] theorem emitStart_status (s : State) : (emitStart s).status = s.status := rfl
@[simp] theorem emitStart_errInfo (s : State) : (emitStart s).errInfo = s.errInfo := rfl
@[simp] theorem emitStart_len1 (s : State) : (emitStart s).len1 = s.len1 := rfl
@[simp] theorem emitStart_len2 (s : State) : (emitStart s).len2 = s.len2 := rfl
@[simp] theorem emitStart_line1 (s : State) : (emitStart s).line1 = s.line1 := rfl
@[simp] theorem emitStart_line2 (s : State) : (emitStart s).line2 = s.line2 := rfl
@[simp] theorem emitStart_cfg0 (s : State) : (emitStart s).cfg0 = s.cfg0 := rfl
@[simp] theorem emitStart_cfgFg (s : State) : (emitStart s).cfgFg = s.cfgFg := rfl
@[simp] theorem emitStart_cfgBg (s : State) : (emitStart s).cfgBg = s.cfgBg := rfl
@[simp] theorem emitStart_flen (s : State) : (emitStart s).flen = s.flen := rfl
@[simp] theorem emitStart_fb (s : State) : (emitStart s).fb = s.fb := rfl
@[simp] theorem emitStart_crc (s : State) : (emitStart s).crc = s.crc := rfl
@[simp] theorem emitStart_nchunk (s : State) : (emitStart s).nchunk = 0 := rfl
@[simp] theorem emitStart_phase (s : State) : (emitStart s).phase = .emit := rfl
@[simp] theorem emitStart_op (s : State) : (emitStart s).op = s.op := rfl
@[simp] theorem emitStart_k (s : State) : (emitStart s).k = 0 := rfl
@[simp] theorem emitStart_pos (s : State) : (emitStart s).pos = 0 := rfl
@[simp] theorem emitStart_agenda (s : State) : (emitStart s).agenda = s.agenda := rfl
@[simp] theorem emitStart_reads (s : State) : (emitStart s).reads = s.reads := rfl
@[simp] theorem emitStart_received (s : State) : (emitStart s).received = s.received := rfl
@[simp] theorem emitStart_draws (s : State) : (emitStart s).draws = s.draws := rfl

/-! ## clearStatus -/

@[simp] theorem clearStatus_status (s : State) : (clearStatus s).status = s.status.cleared := rfl
@[simp] theorem clearStatus_errInfo (s : State) : (clearStatus s).errInfo = 0 := rfl
@[simp] theorem clearStatus_len1 (s : State) : (clearStatus s).len1 = s.len1 := rfl
@[simp] theorem clearStatus_len2 (s : State) : (clearStatus s).len2 = s.len2 := rfl
@[simp] theorem clearStatus_line1 (s : State) : (clearStatus s).line1 = s.line1 := rfl
@[simp] theorem clearStatus_line2 (s : State) : (clearStatus s).line2 = s.line2 := rfl
@[simp] theorem clearStatus_cfg0 (s : State) : (clearStatus s).cfg0 = s.cfg0 := rfl
@[simp] theorem clearStatus_cfgFg (s : State) : (clearStatus s).cfgFg = s.cfgFg := rfl
@[simp] theorem clearStatus_cfgBg (s : State) : (clearStatus s).cfgBg = s.cfgBg := rfl
@[simp] theorem clearStatus_flen (s : State) : (clearStatus s).flen = s.flen := rfl
@[simp] theorem clearStatus_fb (s : State) : (clearStatus s).fb = s.fb := rfl
@[simp] theorem clearStatus_crc (s : State) : (clearStatus s).crc = s.crc := rfl
@[simp] theorem clearStatus_nchunk (s : State) : (clearStatus s).nchunk = s.nchunk := rfl
@[simp] theorem clearStatus_phase (s : State) : (clearStatus s).phase = s.phase := rfl
@[simp] theorem clearStatus_op (s : State) : (clearStatus s).op = s.op := rfl
@[simp] theorem clearStatus_k (s : State) : (clearStatus s).k = s.k := rfl
@[simp] theorem clearStatus_pos (s : State) : (clearStatus s).pos = s.pos := rfl
@[simp] theorem clearStatus_agenda (s : State) : (clearStatus s).agenda = s.agenda := rfl
@[simp] theorem clearStatus_reads (s : State) : (clearStatus s).reads = s.reads := rfl
@[simp] theorem clearStatus_received (s : State) : (clearStatus s).received = s.received := rfl
@[simp] theorem clearStatus_draws (s : State) : (clearStatus s).draws = s.draws := rfl

/-! ## dropWrite -/

@[simp] theorem dropWrite_status (s : State) : (dropWrite s).status = s.status.writeDropped := rfl
@[simp] theorem dropWrite_errInfo (s : State) : (dropWrite s).errInfo = s.errInfo := rfl
@[simp] theorem dropWrite_len1 (s : State) : (dropWrite s).len1 = s.len1 := rfl
@[simp] theorem dropWrite_len2 (s : State) : (dropWrite s).len2 = s.len2 := rfl
@[simp] theorem dropWrite_line1 (s : State) : (dropWrite s).line1 = s.line1 := rfl
@[simp] theorem dropWrite_line2 (s : State) : (dropWrite s).line2 = s.line2 := rfl
@[simp] theorem dropWrite_cfg0 (s : State) : (dropWrite s).cfg0 = s.cfg0 := rfl
@[simp] theorem dropWrite_cfgFg (s : State) : (dropWrite s).cfgFg = s.cfgFg := rfl
@[simp] theorem dropWrite_cfgBg (s : State) : (dropWrite s).cfgBg = s.cfgBg := rfl
@[simp] theorem dropWrite_flen (s : State) : (dropWrite s).flen = s.flen := rfl
@[simp] theorem dropWrite_fb (s : State) : (dropWrite s).fb = s.fb := rfl
@[simp] theorem dropWrite_crc (s : State) : (dropWrite s).crc = s.crc := rfl
@[simp] theorem dropWrite_nchunk (s : State) : (dropWrite s).nchunk = s.nchunk := rfl
@[simp] theorem dropWrite_phase (s : State) : (dropWrite s).phase = s.phase := rfl
@[simp] theorem dropWrite_op (s : State) : (dropWrite s).op = s.op := rfl
@[simp] theorem dropWrite_k (s : State) : (dropWrite s).k = s.k := rfl
@[simp] theorem dropWrite_pos (s : State) : (dropWrite s).pos = s.pos := rfl
@[simp] theorem dropWrite_agenda (s : State) : (dropWrite s).agenda = s.agenda := rfl
@[simp] theorem dropWrite_reads (s : State) : (dropWrite s).reads = s.reads := rfl
@[simp] theorem dropWrite_received (s : State) : (dropWrite s).received = s.received := rfl
@[simp] theorem dropWrite_draws (s : State) : (dropWrite s).draws = s.draws := rfl

/-! ## tick -/

@[simp] theorem tick_status (s : State) : (tick s).status = s.status := rfl
@[simp] theorem tick_errInfo (s : State) : (tick s).errInfo = s.errInfo := rfl
@[simp] theorem tick_len1 (s : State) : (tick s).len1 = s.len1 := rfl
@[simp] theorem tick_len2 (s : State) : (tick s).len2 = s.len2 := rfl
@[simp] theorem tick_line1 (s : State) : (tick s).line1 = s.line1 := rfl
@[simp] theorem tick_line2 (s : State) : (tick s).line2 = s.line2 := rfl
@[simp] theorem tick_cfg0 (s : State) : (tick s).cfg0 = s.cfg0 := rfl
@[simp] theorem tick_cfgFg (s : State) : (tick s).cfgFg = s.cfgFg := rfl
@[simp] theorem tick_cfgBg (s : State) : (tick s).cfgBg = s.cfgBg := rfl
@[simp] theorem tick_flen (s : State) : (tick s).flen = s.flen := rfl
@[simp] theorem tick_fb (s : State) : (tick s).fb = s.fb := rfl
@[simp] theorem tick_crc (s : State) : (tick s).crc = s.crc := rfl
@[simp] theorem tick_nchunk (s : State) : (tick s).nchunk = s.nchunk := rfl
@[simp] theorem tick_phase (s : State) : (tick s).phase = s.phase := rfl
@[simp] theorem tick_op (s : State) : (tick s).op = s.op := rfl
@[simp] theorem tick_k (s : State) : (tick s).k = s.k := rfl
@[simp] theorem tick_pos (s : State) : (tick s).pos = s.pos := rfl
@[simp] theorem tick_agenda (s : State) : (tick s).agenda = s.agenda := rfl
@[simp] theorem tick_reads (s : State) : (tick s).reads = s.reads := rfl
@[simp] theorem tick_received (s : State) : (tick s).received = s.received := rfl
@[simp] theorem tick_draws (s : State) : (tick s).draws = s.draws + 1 := rfl

/-! ## storeFrame -/

@[simp] theorem storeFrame_status (f : List Byte) (s : State) : (storeFrame f s).status = s.status := rfl
@[simp] theorem storeFrame_errInfo (f : List Byte) (s : State) : (storeFrame f s).errInfo = s.errInfo := rfl
@[simp] theorem storeFrame_len1 (f : List Byte) (s : State) : (storeFrame f s).len1 = s.len1 := rfl
@[simp] theorem storeFrame_len2 (f : List Byte) (s : State) : (storeFrame f s).len2 = s.len2 := rfl
@[simp] theorem storeFrame_line1 (f : List Byte) (s : State) : (storeFrame f s).line1 = s.line1 := rfl
@[simp] theorem storeFrame_line2 (f : List Byte) (s : State) : (storeFrame f s).line2 = s.line2 := rfl
@[simp] theorem storeFrame_cfg0 (f : List Byte) (s : State) : (storeFrame f s).cfg0 = s.cfg0 := rfl
@[simp] theorem storeFrame_cfgFg (f : List Byte) (s : State) : (storeFrame f s).cfgFg = s.cfgFg := rfl
@[simp] theorem storeFrame_cfgBg (f : List Byte) (s : State) : (storeFrame f s).cfgBg = s.cfgBg := rfl
@[simp] theorem storeFrame_flen (f : List Byte) (s : State) : (storeFrame f s).flen = BitVec.ofNat 32 f.length := rfl
@[simp] theorem storeFrame_fb (f : List Byte) (s : State) : (storeFrame f s).fb = Memory.writeRange 0 f s.fb := rfl
@[simp] theorem storeFrame_crc (f : List Byte) (s : State) : (storeFrame f s).crc = s.crc := rfl
@[simp] theorem storeFrame_nchunk (f : List Byte) (s : State) : (storeFrame f s).nchunk = s.nchunk := rfl
@[simp] theorem storeFrame_phase (f : List Byte) (s : State) : (storeFrame f s).phase = s.phase := rfl
@[simp] theorem storeFrame_op (f : List Byte) (s : State) : (storeFrame f s).op = s.op := rfl
@[simp] theorem storeFrame_k (f : List Byte) (s : State) : (storeFrame f s).k = s.k := rfl
@[simp] theorem storeFrame_pos (f : List Byte) (s : State) : (storeFrame f s).pos = s.pos := rfl
@[simp] theorem storeFrame_agenda (f : List Byte) (s : State) : (storeFrame f s).agenda = s.agenda := rfl
@[simp] theorem storeFrame_reads (f : List Byte) (s : State) : (storeFrame f s).reads = s.reads := rfl
@[simp] theorem storeFrame_received (f : List Byte) (s : State) : (storeFrame f s).received = s.received := rfl
@[simp] theorem storeFrame_draws (f : List Byte) (s : State) : (storeFrame f s).draws = s.draws := rfl

/-! ## resetBlock -/

@[simp] theorem resetBlock_status (s : State) : (resetBlock s).status = State.reset.status := rfl
@[simp] theorem resetBlock_errInfo (s : State) : (resetBlock s).errInfo = State.reset.errInfo := rfl
@[simp] theorem resetBlock_len1 (s : State) : (resetBlock s).len1 = State.reset.len1 := rfl
@[simp] theorem resetBlock_len2 (s : State) : (resetBlock s).len2 = State.reset.len2 := rfl
@[simp] theorem resetBlock_line1 (s : State) : (resetBlock s).line1 = State.reset.line1 := rfl
@[simp] theorem resetBlock_line2 (s : State) : (resetBlock s).line2 = State.reset.line2 := rfl
@[simp] theorem resetBlock_cfg0 (s : State) : (resetBlock s).cfg0 = State.reset.cfg0 := rfl
@[simp] theorem resetBlock_cfgFg (s : State) : (resetBlock s).cfgFg = State.reset.cfgFg := rfl
@[simp] theorem resetBlock_cfgBg (s : State) : (resetBlock s).cfgBg = State.reset.cfgBg := rfl
@[simp] theorem resetBlock_flen (s : State) : (resetBlock s).flen = State.reset.flen := rfl
@[simp] theorem resetBlock_fb (s : State) : (resetBlock s).fb = State.reset.fb := rfl
@[simp] theorem resetBlock_crc (s : State) : (resetBlock s).crc = State.reset.crc := rfl
@[simp] theorem resetBlock_nchunk (s : State) : (resetBlock s).nchunk = State.reset.nchunk := rfl
@[simp] theorem resetBlock_phase (s : State) : (resetBlock s).phase = State.reset.phase := rfl
@[simp] theorem resetBlock_op (s : State) : (resetBlock s).op = State.reset.op := rfl
@[simp] theorem resetBlock_k (s : State) : (resetBlock s).k = State.reset.k := rfl
@[simp] theorem resetBlock_pos (s : State) : (resetBlock s).pos = State.reset.pos := rfl
@[simp] theorem resetBlock_agenda (s : State) : (resetBlock s).agenda = s.agenda := rfl
@[simp] theorem resetBlock_reads (s : State) : (resetBlock s).reads = s.reads := rfl
@[simp] theorem resetBlock_received (s : State) : (resetBlock s).received = s.received := rfl
@[simp] theorem resetBlock_draws (s : State) : (resetBlock s).draws = s.draws := rfl

/-! ## the flags of `STATUS` -/

@[simp] theorem Status.accepted_busy (st : Status) : st.accepted.busy = true := rfl
@[simp] theorem Status.accepted_done (st : Status) : st.accepted.done = false := rfl
@[simp] theorem Status.accepted_err (st : Status) : st.accepted.err = false := rfl
@[simp] theorem Status.accepted_werr (st : Status) : st.accepted.werr = st.werr := rfl
@[simp] theorem Status.accepted_errCode (st : Status) : st.accepted.errCode = 0 := rfl

@[simp] theorem Status.goodEnd_busy (st : Status) : st.goodEnd.busy = false := rfl
@[simp] theorem Status.goodEnd_done (st : Status) : st.goodEnd.done = true := rfl
@[simp] theorem Status.goodEnd_err (st : Status) : st.goodEnd.err = st.err := rfl
@[simp] theorem Status.goodEnd_werr (st : Status) : st.goodEnd.werr = st.werr := rfl
@[simp] theorem Status.goodEnd_errCode (st : Status) : st.goodEnd.errCode = st.errCode := rfl

@[simp] theorem Status.raised_busy (e : CmdError) (st : Status) : (st.raised e).busy = false := rfl
@[simp] theorem Status.raised_done (e : CmdError) (st : Status) : (st.raised e).done = false := rfl
@[simp] theorem Status.raised_err (e : CmdError) (st : Status) : (st.raised e).err = true := rfl
@[simp] theorem Status.raised_werr (e : CmdError) (st : Status) : (st.raised e).werr = st.werr := rfl
@[simp] theorem Status.raised_errCode (e : CmdError) (st : Status) : (st.raised e).errCode = e.code := rfl

@[simp] theorem Status.cleared_busy (st : Status) : st.cleared.busy = st.busy := rfl
@[simp] theorem Status.cleared_done (st : Status) : st.cleared.done = false := rfl
@[simp] theorem Status.cleared_err (st : Status) : st.cleared.err = false := rfl
@[simp] theorem Status.cleared_werr (st : Status) : st.cleared.werr = false := rfl
@[simp] theorem Status.cleared_errCode (st : Status) : st.cleared.errCode = 0 := rfl

@[simp] theorem Status.writeDropped_busy (st : Status) : st.writeDropped.busy = st.busy := rfl
@[simp] theorem Status.writeDropped_done (st : Status) : st.writeDropped.done = st.done := rfl
@[simp] theorem Status.writeDropped_err (st : Status) : st.writeDropped.err = st.err := rfl
@[simp] theorem Status.writeDropped_werr (st : Status) : st.writeDropped.werr = true := rfl
@[simp] theorem Status.writeDropped_errCode (st : Status) : st.writeDropped.errCode = st.errCode := rfl

end Sys2Proof.Machine
end

