-- ==== Sys2Proof/Laws/Sending.lean ====
section
/-! SUPPORT. Laws/Sending.lean: what the frame of a written buffer depends on, what the invariants depend on, the beats of a
buffer, and runs of several steps. -/

namespace Sys2Proof.Machine

/-- A written frame is a function of `FLEN` and `FB` alone. -/
theorem frameOperand_congr {s t : State} (h6 : t.flen = s.flen) (h7 : t.fb = s.fb) :
    (FrameWritten t ↔ FrameWritten s) ∧ (FrameWritten s → frameOperand t = frameOperand s) := by
  refine ⟨by simp [FrameWritten, h6, h7], ?_⟩
  intro hw
  unfold frameOperand
  rw [h6]
  apply List.map_congr_left
  intro j hj
  have hj := hw j (List.mem_range.1 hj)
  obtain ⟨x, hx⟩ := Option.isSome_iff_exists.1 hj
  simp [fbByte, h7, hx]

/-- A frame just stored is written and reads back (R156). -/
theorem frameOperand_of_stored {s : State} {f : List Byte} (hf : f.length < 2 ^ 32) {t : State}
    (h1 : t.flen = BitVec.ofNat 32 f.length) (h2 : t.fb = Memory.writeRange 0 f s.fb) :
    FrameWritten t ∧ frameOperand t = f := by
  have hl : t.flen.toNat = f.length := by rw [h1]; simp; omega
  have hr : ∀ j, j < f.length → Memory.read t.fb j = f[j]? := by
    intro j hj; rw [h2, Memory.read_writeRange]; simp [hj]
  constructor
  · intro j hj; rw [hl] at hj; rw [hr j hj]; simp [hj]
  · apply List.ext_getElem
    · simp [hl]
    · intro j h3 h4
      simp [frameOperand, fbByte, hr j h4, h4]

/-- The fields the invariants depend on. -/
theorem inv_congr {s t : State} (h1 : t.status.busy = s.status.busy) (h2 : t.status.done = s.status.done)
    (h3 : t.status.err = s.status.err) (h4 : t.status.errCode = s.status.errCode) (h5 : t.errInfo = s.errInfo)
    (h6 : t.flen = s.flen) (h7 : t.fb = s.fb) (h8 : t.crc = s.crc) (h9 : t.nchunk = s.nchunk)
    (h10 : t.phase = s.phase) (h11 : t.op = s.op) (h12 : t.k = s.k) (h13 : t.pos = s.pos) (h : Inv s) : Inv t := by
  have hS : Sending t ↔ Sending s := by simp [Sending, h10]
  obtain ⟨hF, hfr⟩ := frameOperand_congr h6 h7
  constructor
  · rw [h1, h10]; exact h.busy_iff
  · rw [h2, h3]; exact h.not_both
  · rw [h1,h2,h3]; exact h.busy_clean
  · rw [h3,h4]; exact h.errCode_iff
  · rw [h3,h5]; exact h.errInfo_zero
  · rw [hS, h6]; exact h.flen_le
  · rw [hS, hF, h8]; intro a b; rw [hfr b]; exact h.crc_eq a b
  · rw [hS, h12, h6]; exact h.k_lt
  · rw [hS, h12, h9]; exact h.nchunk_eq
  · rw [hS, h11]; exact h.op_sends
  · rw [h10, h13, h12]; intro a; have := h.pos_lt a; simpa [bufLenAt, sliceLenAt, h6] using this

/-- The status while a command runs (R35 (a) to (c)). -/
theorem Inv.busy_facts {s : State} (h : Inv s) (hp : s.phase ≠ .idle) :
    s.status.busy = true ∧ s.status.done = false ∧ s.status.err = false ∧ s.status.errCode = 0 ∧ s.errInfo = 0 := by
  have hb := h.busy_iff.2 hp
  have hc := h.busy_clean hb
  refine ⟨hb, hc.1, hc.2, ?_, h.errInfo_zero hc.2⟩
  by_contra hne
  have := h.errCode_iff.1 hne
  rw [hc.2] at this; cases this

theorem length_bufferBeats (l : List Byte) : (bufferBeats l).length = l.length := by
  induction l with
  | nil => rfl
  | cons b l ih =>
    cases l with
    | nil => rfl
    | cons c l => simp only [bufferBeats, List.length_cons] at *; omega

/-- Beat i of a buffer (R72). -/
theorem getElem?_bufferBeats (l : List Byte) (i : Nat) :
    (bufferBeats l)[i]? = l[i]?.map (fun b => ⟨b, decide (i + 1 = l.length)⟩) := by
  induction l generalizing i with
  | nil => rfl
  | cons b l ih =>
    cases l with
    | nil => cases i <;> simp [bufferBeats]
    | cons c l =>
      cases i with
      | zero => simp [bufferBeats]
      | succ i => simp only [bufferBeats, List.getElem?_cons_succ]; rw [ih]; simp

/-- A run takes its first step. -/
theorem run_next_of_step (M : Host.Core) (n : Nat) {s t : M.State} (h : M.step s = .next t) :
    M.run (n + 1) s = M.run n t := by
  simp [Host.Core.run, h]

/-- A run goes on from where a shorter one ends. -/
theorem run_add_of_run (M : Host.Core) (m n : Nat) (s t : M.State) (h : M.run m s = .next t) :
    M.run (m + n) s = M.run n t := by
  induction m generalizing s with
  | zero => simp [Host.Core.run] at h; cases h; simp
  | succ m ih =>
    rw [show m + 1 + n = (m + n) + 1 by omega]
    cases hs : M.step s with
    | next u => simp only [Host.Core.run, hs] at h ⊢; exact ih u h
    | fault r => simp [Host.Core.run, hs] at h
    | refused r => simp [Host.Core.run, hs] at h

end Sys2Proof.Machine
end

