-- ==== Sys2Proof/Laws/Sequences.lean ====
section
/-! SUPPORT. Laws/Sequences.lean: laws of slices, columns, the shift register of the checksum and little-endian numbers. -/

namespace Sys2Proof.Machine

/-- The slice that is the middle of three pieces. -/
theorem seqSlice_append_middle {α} (a b c : List α) (x y : Nat) (hx : x = a.length) (hy : y = a.length + b.length) :
    seqSlice (a ++ b ++ c) x y = b := by
  subst hx hy
  simp [seqSlice, List.take_append]

/-- Piece i of a sequence made of pieces of one length. -/
theorem seqSlice_flatMap {α : Type} (f : Nat → List α) (len : Nat) (hf : ∀ i, (f i).length = len) (n i : Nat) (hi : i < n) :
    seqSlice ((List.range n).flatMap f) (i * len) ((i+1) * len) = f i := by
  have h1 : List.range n = List.range i ++ i :: (List.range' (i+1) (n - (i+1))) := by
    rw [List.range_eq_range', List.range_eq_range']
    have : n = i + (1 + (n - (i+1))) := by omega
    conv_lhs => rw [this]
    rw [← List.range'_append_1, ← List.range'_append_1]
    simp
  rw [h1, List.flatMap_append, List.flatMap_cons]
  rw [← List.append_assoc]
  apply seqSlice_append_middle
  · simp [List.length_flatMap, hf]
  · simp [List.length_flatMap, hf]; ring

/-- The three parts of a column (R94, R141). -/
theorem column_fields {cfg : Config} (h : cfg.WellFormed) (l1 l2 : List cfg.Code) (i : Nat) :
    seqSlice (column cfg l1 l2 i) 0 4 = colHdr ∧
    seqSlice (column cfg l1 l2 i) 4 (4 + cfg.glyphSize) = lookup cfg (charAt cfg l1 i) ∧
    seqSlice (column cfg l1 l2 i) (4 + cfg.glyphSize) (4 + 2 * cfg.glyphSize) = lookup cfg (charAt cfg l2 i) := by
  refine ⟨?_, ?_, ?_⟩
  · have := seqSlice_append_middle ([] : List Byte) colHdr (lookup cfg (charAt cfg l1 i) ++ lookup cfg (charAt cfg l2 i)) 0 4 rfl rfl
    simpa [column] using this
  · exact seqSlice_append_middle colHdr _ _ _ _ rfl (by simp [length_lookup h])
  · have := seqSlice_append_middle (colHdr ++ lookup cfg (charAt cfg l1 i)) (lookup cfg (charAt cfg l2 i)) [] (4 + cfg.glyphSize) (4 + 2 * cfg.glyphSize) (by simp [length_lookup h]) (by simp [length_lookup h]; omega)
    simpa [column] using this

/-- A slice of the frame (R186). -/
theorem slice_eq_take_drop (c : Nat) (s : List Byte) (k : Nat) : slice c s k = (s.drop (k*c)).take c := by
  have : (k + 1) * c = k * c + c := by ring
  unfold slice seqSlice
  rw [List.drop_take, this]
  rw [List.take_eq_take_iff]
  simp; omega

/-- The first n slices are the first n·C bytes (R187). -/
theorem flatMap_slice (c : Nat) (s : List Byte) (n : Nat) :
    (List.range n).flatMap (slice c s) = s.take (n * c) := by
  induction n with
  | zero => simp
  | succ n ih =>
    rw [List.range_succ, List.flatMap_append, ih]
    simp only [List.flatMap_singleton, slice_eq_take_drop]
    rw [show (n+1)*c = n*c + c by ring, List.take_add]

/-- The shift step is linear (R170). -/
theorem crcShift_xor (a b : Word) : crcShift (a ^^^ b) = crcShift a ^^^ crcShift b := by
  unfold crcShift
  simp only [BitVec.getLsbD_xor, BitVec.ushiftRight_xor_distrib]
  cases a.getLsbD 0 <;> cases b.getLsbD 0 <;> simp
  · ac_rfl
  · ac_rfl
  · rw [show (a >>> 1 ^^^ 3988292384#32 ^^^ (b >>> 1 ^^^ 3988292384#32)) = (a >>> 1 ^^^ b >>> 1) ^^^ (3988292384#32 ^^^ 3988292384#32) by ac_rfl]; simp

theorem crcShifts_xor (t : Nat) (a b : Word) : crcShifts t (a ^^^ b) = crcShifts t a ^^^ crcShifts t b := by
  induction t generalizing a b with
  | zero => rfl
  | succ t ih => simp [crcShifts, crcShift_xor, ih]

/-- Shift steps over zero bits only shift. -/
theorem crcShifts_of_low_zero (t : Nat) (a : Word) (h : ∀ i, i < t → a.getLsbD i = false) : crcShifts t a = a >>> t := by
  induction t generalizing a with
  | zero => simp [crcShifts]
  | succ t ih =>
    have h0 : crcShift a = a >>> 1 := by
      have := h 0 (by omega)
      unfold crcShift; rw [this]; rfl
    rw [crcShifts, h0, ih]
    · rw [← BitVec.shiftRight_add, Nat.add_comm]
    · intro i hi; simp; rw [Nat.add_comm]; exact h _ (by omega)

/-- `le16` read back (R12, R68). -/
theorem leValue_le16 (v : BitVec 16) : leValue (le16 v) = v.toNat := by
  simp [le16, leValue]
  have := v.isLt
  simp only [Nat.shiftRight_eq_div_pow]; omega

/-- `le32` read back (R12, R68). -/
theorem leValue_le32 (v : Word) : leValue (le32 v) = v.toNat := by
  simp [le32, leValue]
  have := v.isLt
  simp only [Nat.shiftRight_eq_div_pow]; omega

end Sys2Proof.Machine
end

