-- ==== Sys2Proof/Laws/Step.lean ====
section
/-! SUPPORT. Laws/Step.lean: what a step and each shared operation of the agents can do, said once. -/

namespace Sys2Proof.Machine

theorem step_nil {s : State} (h : s.agenda = []) : step s = sequencerStep s := by
  simp [step, nextMove, h]

theorem step_cons {s : State} {e : Event} {rest : List Event} (h : s.agenda = e :: rest) :
    step s = eventStep e { s with agenda := rest } := by
  simp [step, nextMove, h]

/-- The step in which a move comes next is that move. -/
theorem stepOn_eq (e : Event) (s : State) : stepOn e s = eventStep e s := rfl

/-! ## Commands by phase -/

theorem runCommand_idle {op : Op} {body : State → State} {s : State} (h : s.phase = .idle) :
    runCommand op body s = accept op s := by simp [runCommand, h]

theorem runCommand_exec {op : Op} {body : State → State} {s : State} (h : s.phase = .exec) :
    runCommand op body s = body s := by simp [runCommand, h]

theorem runCommand_emit {op : Op} {body : State → State} {s : State} (h : s.phase = .emit) :
    runCommand op body s = s := by simp [runCommand, h]

theorem runCommand_resp {op : Op} {body : State → State} {s : State} (h : s.phase = .resp) :
    runCommand op body s = s := by simp [runCommand, h]

/-- The computation of the `EXEC` step, by `OP` (R222). -/
theorem exec_op_exec {s : State} (h : s.phase = .exec) :
    exec s.op.instr s = .next (match s.op with
      | .build => buildBody s
      | .crc => crcBody s
      | .chunk => chunkBody s
      | .encode => encodeBody s) := by
  cases ho : s.op <;>
    simp [Op.instr, exec, execBuild, execCrc, execChunk, execEncode, runCommand, h]

theorem exec_op_sending {s : State} (h : Sending s) : exec s.op.instr s = .next s := by
  rcases h with h | h <;> cases ho : s.op <;>
    simp [Op.instr, exec, execBuild, execCrc, execChunk, execEncode, runCommand, h]

/-- Acceptance of the four commands that are accepted (R221). -/
theorem exec_idle (op : Op) {s : State} (h : s.phase = .idle) : exec op.instr s = .next (accept op s) := by
  cases op <;> simp [Op.instr, exec, execBuild, execCrc, execChunk, execEncode, runCommand, h]

/-- A command always answers a next state. -/
theorem exec_next (i : Instr) (s : State) : ∃ t, exec i s = .next t := by
  cases i <;> exact ⟨_, rfl⟩

/-- What a command can do, by phase: nothing else happens (R221 to R223, R227, R228). -/
theorem exec_cases {i : Instr} {s t : State} (h : exec i s = .next t) :
    (i = .nop ∧ t = s) ∨ (i = .clear ∧ t = clearStatus s) ∨
    (∃ op : Op, i = op.instr ∧
      ((s.phase = .idle ∧ t = accept op s) ∨
       (s.phase = .exec ∧ t = (match op with
          | .build => buildBody s
          | .crc => crcBody s
          | .chunk => chunkBody s
          | .encode => encodeBody s)) ∨
       (Sending s ∧ t = s))) := by
  have key : ∀ (op : Op) (body : State → State), t = runCommand op body s →
      (s.phase = .idle ∧ t = accept op s) ∨ (s.phase = .exec ∧ t = body s) ∨ (Sending s ∧ t = s) := by
    intro op body ht
    subst ht
    cases hp : s.phase <;> simp [runCommand, hp, Sending]
  cases i with
  | nop => left; exact ⟨rfl, by simpa [exec, execNop] using h.symm⟩
  | clear => right; left; exact ⟨rfl, by simpa [exec, execClear] using h.symm⟩
  | build => right; right; exact ⟨.build, rfl, key _ _ (by simpa [exec, execBuild] using h.symm)⟩
  | crc => right; right; exact ⟨.crc, rfl, key _ _ (by simpa [exec, execCrc] using h.symm)⟩
  | chunk => right; right; exact ⟨.chunk, rfl, key _ _ (by simpa [exec, execChunk] using h.symm)⟩
  | encode => right; right; exact ⟨.encode, rfl, key _ _ (by simpa [exec, execEncode] using h.symm)⟩

/-! ## The host's accesses -/

theorem hostAccess_next {width off : Nat} {act : Target → Result} {t : State}
    (h : hostAccess width off act = .next t) :
    width = 32 ∧ off % 4 = 0 ∧ ∃ tgt, targetAt off = some tgt ∧ act tgt = .next t := by
  unfold hostAccess at h
  split at h
  · cases h
  · split at h
    · cases h
    · split at h
      · cases h
      · rename_i h1 h2 tgt ht
        exact ⟨by omega, by omega, tgt, ht, h⟩

theorem hostAccess_legal {width off : Nat} {act : Target → Result} (h : AccessLegal width off) :
    ∃ tgt, targetAt off = some tgt ∧ hostAccess width off act = act tgt := by
  obtain ⟨h1, h2, h3⟩ := h
  obtain ⟨tgt, ht⟩ := Option.isSome_iff_exists.1 h3
  exact ⟨tgt, ht, by simp [hostAccess, h1, h2, ht]⟩

/-- What a host write that has a meaning can do (R63, R65, R220, R230). -/
theorem hostWrite_cases {width off : Nat} {v : Word} {s t : State} (h : hostWrite width off v s = .next t) :
    ∃ tgt, targetAt off = some tgt ∧
      ((s.status.busy = true ∧ t = dropWrite s) ∨
       (s.status.busy = false ∧ tgt = .cmd ∧
          ((∃ i, decode v = .ok i ∧ exec i s = .next t) ∨
           (∃ e, decode v = .error e ∧ t = raise (.illegalCommand v) s))) ∨
       (s.status.busy = false ∧ tgt ≠ .cmd ∧ t = writeTarget tgt v s)) := by
  obtain ⟨-, -, tgt, ht, h⟩ := hostAccess_next h
  refine ⟨tgt, ht, ?_⟩
  split at h
  · rename_i hb
    left
    exact ⟨hb, by simpa using h.symm⟩
  · rename_i hb
    simp only [Bool.not_eq_true] at hb
    split at h
    · rename_i hc
      right; left
      refine ⟨hb, hc, ?_⟩
      unfold commandWrite at h
      split at h
      · rename_i i hi
        exact .inl ⟨i, hi, h⟩
      · rename_i e he
        exact .inr ⟨e, he, by simpa using h.symm⟩
    · rename_i hc
      right; right
      exact ⟨hb, hc, by simpa using h.symm⟩

/-- A mapped offset names a cell or register that exists (R61). -/
theorem targetAt_exists {off : Nat} {tgt : Target} (h : targetAt off = some tgt) : tgt.exists? = true := by
  unfold targetAt at h
  split at h
  · unfold registerAt at h
    split at h <;> first | (cases h; rfl) | cases h
  · repeat' split at h
    all_goals cases h
    all_goals refine decide_eq_true ?_
    all_goals simp only [Config.lineDepth, hw_fbSize] at *
    all_goals omega

/-- The frame of a host write to a target other than `CMD`: the status, the results and the sequencer stay (R63). -/
theorem writeTarget_frame (tgt : Target) (v : Word) (s : State) :
    (writeTarget tgt v s).status = s.status ∧ (writeTarget tgt v s).errInfo = s.errInfo ∧
    (writeTarget tgt v s).crc = s.crc ∧ (writeTarget tgt v s).nchunk = s.nchunk ∧
    (writeTarget tgt v s).phase = s.phase ∧ (writeTarget tgt v s).op = s.op ∧
    (writeTarget tgt v s).k = s.k ∧ (writeTarget tgt v s).pos = s.pos ∧
    (writeTarget tgt v s).agenda = s.agenda ∧ (writeTarget tgt v s).reads = s.reads ∧
    (writeTarget tgt v s).received = s.received ∧ (writeTarget tgt v s).draws = s.draws := by
  cases tgt <;> simp [writeTarget]

theorem hostRead_cases {width off : Nat} {s t : State} (h : hostRead width off s = .next t) :
    ∃ tgt, targetAt off = some tgt ∧ t = tick { s with reads := s.reads ++ [readValue tgt s] } := by
  obtain ⟨-, -, tgt, ht, h⟩ := hostAccess_next h
  exact ⟨tgt, ht, by simpa using h.symm⟩

/-! ## The sequencer and the transport -/

/-- What the sequencer's turn does, by phase (R222, R223). -/
theorem sequencerStep_cases (s : State) :
    (s.phase = .idle ∧ sequencerStep s = .next s) ∨
    (s.phase = .exec ∧ sequencerStep s = .next (match s.op with
      | .build => buildBody s
      | .crc => crcBody s
      | .chunk => chunkBody s
      | .encode => encodeBody s)) ∨
    (Sending s ∧ sequencerStep s = .next s) := by
  cases hp : s.phase with
  | idle => left; simp [sequencerStep, hp]
  | exec => right; left; exact ⟨rfl, by simp only [sequencerStep, hp]; exact exec_op_exec hp⟩
  | emit =>
    right; right
    exact ⟨.inl hp, by simp only [sequencerStep, hp]; exact exec_op_sending (.inl hp)⟩
  | resp =>
    right; right
    exact ⟨.inr hp, by simp only [sequencerStep, hp]; exact exec_op_sending (.inr hp)⟩

/-- What a move of the transport does (R201 to R205). -/
theorem transportStep_cases (rdy vld ok : Bool) (s : State) :
    transportStep rdy vld ok s = s ∨
    (s.phase = .emit ∧ rdy = true ∧ transportStep rdy vld ok s = beat s) ∨
    (s.phase = .resp ∧ vld = true ∧ ok = true ∧ transportStep rdy vld ok s = answerOk s) ∨
    (s.phase = .resp ∧ vld = true ∧ ok = false ∧ transportStep rdy vld ok s = answerFail s) := by
  cases hp : s.phase <;> cases rdy <;> cases vld <;> cases ok <;> simp [transportStep, hp]

end Sys2Proof.Machine
end

