-- ==== Sys2Proof/Tests/Slice0.lean ====
section
/-! SUPPORT. Tests/Slice0.lean: tests of the model (expected values from 95_test_vectors.md and the rules' own examples)
and, for every obligation that has hypotheses, a concrete input that meets them. -/

namespace Sys2Proof.Tests

open Sys2Proof.Machine

/- One theorem at a time: many small evaluations at once would each take a thread of their own. -/
set_option Elab.async false

/-! ## WellFormed: each check refuses a configuration that breaks it (R7, R8, R198, U4, U5) -/

/-- A configuration that breaks no check but perhaps that of `CHAR_W`: the code 0 is the space and has a glyph. -/
def withCharWidth (w : Nat) : Config where
  charWidth := w
  glyphSize := 8
  chunkSize := 4096
  space := 0
  defMode := 0
  defSpeed := 0
  defColorMode := 0
  defBgMode := 0
  defBg := ⟨0, 0, 0⟩
  glyphTable := fun _ => some [0, 0, 0, 0, 0, 0, 0, 0]

theorem smoke_charWidth_small : ¬ (withCharWidth 5).WellFormed := fun h => absurd h.charWidth_ge (by decide)
theorem smoke_charWidth_large : ¬ (withCharWidth 33).WellFormed := fun h => absurd h.charWidth_le (by decide)
/-- Every width of R7 is admitted, the least and the largest too. -/
theorem test_charWidth {w : Nat} (h6 : 6 ≤ w) (h32 : w ≤ 32) : (withCharWidth w).WellFormed := by
  constructor <;> simp [withCharWidth, Config.fbSize, Config.colLen, h6, h32]

theorem smoke_glyphSize_zero : ¬ ({ Config.reference with glyphSize := 0 } : Config).WellFormed :=
  fun h => absurd h.glyphSize_pos (by decide)
theorem smoke_glyphSize_large : ¬ ({ Config.reference with glyphSize := 65536 } : Config).WellFormed :=
  fun h => absurd h.glyphSize_le (by decide)
theorem smoke_chunkSize_zero : ¬ ({ Config.reference with chunkSize := 0 } : Config).WellFormed :=
  fun h => absurd h.chunkSize_pos (by decide)
theorem smoke_chunkSize_large : ¬ ({ Config.reference with chunkSize := 65520 } : Config).WellFormed :=
  fun h => absurd h.chunkSize_le (by decide)
theorem smoke_fbSize_large : ¬ ({ Config.reference with glyphSize := 2 ^ 24 } : Config).WellFormed :=
  fun h => absurd h.fbSize_lt (by decide)
theorem smoke_space_undefined : ¬ ({ Config.reference with space := 0x7F } : Config).WellFormed :=
  fun h => absurd h.space_defined (by decide)
theorem smoke_glyph_length :
    ¬ ({ Config.reference with glyphTable := fun c => if c = 0x41 then some [0] else Config.testGlyphs c } : Config).WellFormed :=
  fun h => absurd (h.glyph_length 0x41 [0] (by decide)) (by decide)
theorem smoke_commands_wellFormed : ∀ i : Instr, i.wellFormed = true := by intro i; cases i <;> rfl

/-! ## Decoding (R90 to R93): words written out bit by bit, fields 31:8 and 7:0 -/

theorem test_decode_nop : decode 0b000000000000000000000000_00000000#32 = .ok .nop := by decide
theorem test_decode_build : decode 0b000000000000000000000000_00000001#32 = .ok .build := by decide
theorem test_decode_crc : decode 0b000000000000000000000000_00000010#32 = .ok .crc := by decide
theorem test_decode_chunk : decode 0b000000000000000000000000_00000011#32 = .ok .chunk := by decide
theorem test_decode_encode : decode 0b000000000000000000000000_00000100#32 = .ok .encode := by decide
theorem test_decode_clear : decode 0b000000000000000000000000_00000101#32 = .ok .clear := by decide
theorem test_decode_reserved : decode 0x00000006#32 = .error (.reservedCode 0x06) := by decide
/-- V6.16 -/
theorem test_decode_reserved_last : decode 0x000000FF#32 = .error (.reservedCode 0xFF) := by decide
/-- V6.15: the low byte is BUILD's code. -/
theorem test_decode_high_bits : decode 0x00000101#32 = .error (.nonzeroHighBits 0x000001) := by decide
/-- V6.16 -/
theorem test_decode_top_bit : decode 0x80000000#32 = .error (.nonzeroHighBits 0x800000) := by decide
theorem test_decodeTableWord : decodeTableWord 32 3 = some .chunk ∧ decodeTableWord 32 6 = none := by decide

/-! ## The function level under REFCFG -/

/-- V1.1 to V1.6 -/
theorem test_lookup : lookup Config.reference 0x41 = [0x41, 0x42, 0x43, 0x44, 0x45, 0x46, 0x47, 0x48] ∧
    lookup Config.reference 0xE9 = [0x20, 0x21, 0x22, 0x23, 0x24, 0x25, 0x26, 0x27] ∧
    lookup Config.reference 0x1F600 = lookup Config.reference 0x20 ∧ lookup Config.reference 0x7F = lookup Config.reference 0x20 ∧
    lookup Config.reference 0x7E = [0x7E, 0x7F, 0x80, 0x81, 0x82, 0x83, 0x84, 0x85] := by decide
/-- V2.1 -/
theorem test_charAt : charAt Config.reference [0x41, 0x42] 1 = 0x42 ∧ charAt Config.reference [0x41, 0x42] 2 = 0x20 ∧
    charAt Config.reference [] 0 = 0x20 := by decide
/-- V2.4: line 1 is the padded one and still comes first. -/
theorem test_assemble_padding : assemble Config.reference [] [0x5A] =
    [0x02, 0xFF, 0xFF, 0xFF, 0x20, 0x21, 0x22, 0x23, 0x24, 0x25, 0x26, 0x27,
     0x5A, 0x5B, 0x5C, 0x5D, 0x5E, 0x5F, 0x60, 0x61] := by decide
/-- V3.5 -/
theorem test_textHdr : textHdr 1 ⟨0x01, 0x10, 0x02, 0x01⟩ ⟨0x11, 0x22, 0x33⟩ ⟨0x44, 0x55, 0x66⟩ =
    [0x01, 0x00, 0x00, 0x01, 0x01, 0x10, 0x02, 0x11, 0x22, 0x33, 0x01, 0x44, 0x55, 0x66] := by decide
/-- The registers' reset values under REFCFG. -/
def referenceCfg0 : Cfg0 := ⟨Config.reference.defMode, Config.reference.defSpeed, Config.reference.defColorMode, Config.reference.defBgMode⟩
/-- S8's frame. -/
def frameS8 : List Byte :=
  [0x01, 0x00, 0x00, 0x01, 0x00, 0x5F, 0x01, 0xFF, 0xFF, 0x00, 0x00, 0x00, 0x00, 0x00,
   0x02, 0xFF, 0xFF, 0xFF, 0x41, 0x42, 0x43, 0x44, 0x45, 0x46, 0x47, 0x48,
   0x42, 0x43, 0x44, 0x45, 0x46, 0x47, 0x48, 0x49]
theorem test_buildFrame_S8 :
    (buildFrame Config.reference referenceCfg0 Config.defFg Config.reference.defBg [0x41] [0x42]).toOption = some frameS8 := by decide
/-- S6: the padding law's instance. -/
theorem test_buildFrame_S6 :
    (buildFrame Config.reference referenceCfg0 Config.defFg Config.reference.defBg [0x41, 0x42] [0x41]).toOption.map (fun f => f.drop 34) =
    some [0x02, 0xFF, 0xFF, 0xFF, 0x42, 0x43, 0x44, 0x45, 0x46, 0x47, 0x48, 0x49,
      0x20, 0x21, 0x22, 0x23, 0x24, 0x25, 0x26, 0x27] := by decide
/-- V3.1, V3.2 -/
theorem test_colCount : (colCount 255 255).toOption = some 255 ∧ (colCount 2 1).toOption = some 2 ∧
    (colCount 3 300).toOption = none ∧ (colCount 256 0).toOption = none := by decide
/-- S8's checksum, and V4.2 to V4.8. -/
theorem test_crc_S8 : crc32 frameS8 = 0x1F1A159C#32 := by decide +kernel
theorem test_crc_bytes : crc32 [0x00] = 0xD202EF8D#32 ∧ crc32 [0xFF] = 0xFF000000#32 ∧
    crc32 [0x00, 0x00, 0x00, 0x00] = 0x2144DF1C#32 ∧ crc32 [0xFF, 0xFF, 0xFF, 0xFF] = 0xFFFFFFFF#32 := by decide +kernel
/-- R177: the remainder after one and after two shift steps. -/
theorem test_crc_shift : crcShift 0xFFFFFF9E#32 = 0x7FFFFFCF#32 ∧ crcShift 0x7FFFFFCF#32 = 0xD2477CC7#32 := by decide
/-- V5.1 -/
theorem test_nchunks : nchunks 4096 0 = 1 ∧ nchunks 4096 4096 = 1 ∧ nchunks 4096 4097 = 2 ∧ nchunks 4096 5114 = 2 ∧
    nchunks 4 10 = 3 ∧ nchunks 11 10 = 1 ∧ nchunks 1 0 = 1 := by decide
/-- The ten bytes of V5.3. -/
def ten : List Byte := [0x01, 0x02, 0x03, 0x04, 0x05, 0x06, 0x07, 0x08, 0x09, 0x0A]
/-- V5.3 with C = 4. -/
theorem test_chunkSeq_4 : chunkSeq 4 ten =
    [[0x14, 0x00, 0x03, 0x00, 0x00, 0x0A, 0x00, 0x00, 0x00, 0x7B, 0x57, 0x20, 0x25, 0x00, 0x00, 0x0C,
        0x01, 0x02, 0x03, 0x04],
     [0x14, 0x00, 0x03, 0x00, 0x02, 0x0A, 0x00, 0x00, 0x00, 0x7B, 0x57, 0x20, 0x25, 0x00, 0x00, 0x0C,
        0x05, 0x06, 0x07, 0x08],
     [0x12, 0x00, 0x03, 0x00, 0x02, 0x0A, 0x00, 0x00, 0x00, 0x7B, 0x57, 0x20, 0x25, 0x00, 0x00, 0x0C,
        0x09, 0x0A]] := by decide +kernel
/-- The header of S8's chunk (R190). -/
theorem test_chunkHdr_S8 : chunkHdr 4096 frameS8 0 =
    [0x32, 0x00, 0x03, 0x00, 0x00, 0x22, 0x00, 0x00, 0x00, 0x9C, 0x15, 0x1A, 0x1F, 0x00, 0x00, 0x0C] := by
  decide +kernel
/-- V5.7's second header, from its variable fields: 1018 slice bytes, chunk 1, L = 5114, checksum 0xCAB3199E. -/
theorem test_headerBytes : headerBytes 1018 1 5114 0xCAB3199E#32 =
    [0x0A, 0x04, 0x03, 0x00, 0x02, 0xFA, 0x13, 0x00, 0x00, 0x9E, 0x19, 0xB3, 0xCA, 0x00, 0x00, 0x0C] := by decide

/-! ## One step of the machine -/

/-- The next state, where there is one. -/
def after (r : Result) : Option State :=
  match r with
  | .next t => some t
  | .fault _ => none
  | .refused _ => none

/-- `STATUS` as the host would read it after a step. -/
def statusAfter (r : Result) : Option Word := (after r).map fun t => statusWord t.status

/-- An idle block with the status given. -/
def idleWith (st : Status) : State := { State.reset with status := st }
/-- A block in which a command is accepted and pending. -/
def pending (op : Op) : State := { State.reset with status := ⟨true, false, false, false, 0⟩, op := op, phase := .exec }
/-- A block sending the frame `f`, checksum computed, at byte `pos` of buffer 0. -/
def sending (f : List Byte) (pos : Nat) : State :=
  { State.reset with
    status := ⟨true, false, false, false, 0⟩
    op := .chunk
    phase := .emit
    pos := pos
    fb := Memory.cellsFrom 0 f
    flen := BitVec.ofNat 32 f.length
    crc := crc32 f }
/-- The same block, waiting for the answer to buffer 0. -/
def awaiting (f : List Byte) : State := { sending f 0 with phase := .resp }

/-- V6.10 -/
theorem test_nop : statusAfter (exec .nop (idleWith ⟨false, true, false, false, 0⟩)) = some 0x02 := by decide
/-- V6.11: 0x1C before. -/
theorem test_clear : statusWord ⟨false, false, true, true, 1⟩ = 0x1C ∧
    statusAfter (exec .clear (idleWith ⟨false, false, true, true, 1⟩)) = some 0x00 := by decide
/-- V6.13: at acceptance 0x09, `WERR` kept. -/
theorem test_build_accepted : statusAfter (exec .build (idleWith ⟨false, true, false, true, 0⟩)) = some 0x09 := by decide
/-- P3: two empty lines give 14 bytes, the first of them N = 0 and the fourth 0x01. -/
theorem test_build : (after (exec .build (pending .build))).map
    (fun t => (statusWord t.status, t.flen, Memory.read t.fb 0, Memory.read t.fb 3, Memory.read t.fb 14)) =
    some (0x02, 14, some 0x00, some 0x01, none) := by decide +kernel
/-- V7.3 -/
theorem test_build_capacity : (after (exec .build { pending .build with len1 := 0xFFFFFFFF })).map
    (fun t => (statusWord t.status, t.errInfo)) = some (0x14, 0xFFFFFFFF) := by decide
/-- V4.8 on the machine. -/
theorem test_crc : (after (exec .crc { pending .crc with fb := Memory.cellsFrom 0 ten, flen := 10 })).map
    (fun t => (statusWord t.status, t.crc)) = some (0x02, 0x2520577B) := by decide +kernel
/-- V7.4 -/
theorem test_crc_range : (after (exec .crc { pending .crc with flen := 5115 })).map
    (fun t => (statusWord t.status, t.errInfo, t.crc)) = some (0x44, 0x000013FB, 0) := by decide +kernel
/-- V8.1: after the `EXEC` step. -/
theorem test_chunk : (after (exec .chunk { pending .chunk with nchunk := 7, k := 1, pos := 9 })).map
    (fun t => (statusWord t.status, t.phase, t.k, t.pos, t.nchunk, t.crc)) = some (0x01, .emit, 0, 0, 0, 0) := by
  decide +kernel
/-- V7.5: `NCHUNK` unchanged. -/
theorem test_chunk_range : (after (exec .chunk { pending .chunk with flen := 5115, nchunk := 7 })).map
    (fun t => (statusWord t.status, t.nchunk)) = some (0x44, 7) := by decide +kernel
/-- V7.7: the old `FLEN` is never tested. -/
theorem test_encode : (after (exec .encode { pending .encode with flen := 5115 })).map
    (fun t => (statusWord t.status, t.phase, t.flen, Memory.read t.fb 3)) = some (0x01, .emit, 14, some 0x01) := by
  decide +kernel
/-- V7.2 -/
theorem test_encode_capacity : (after (exec .encode { pending .encode with len1 := 255, len2 := 256 })).map
    (fun t => (statusWord t.status, t.errInfo, t.fb)) = some (0x14, 256, []) := by decide

/-- V6.14 and V6.15 -/
theorem test_illegal : (after (stepOn (.hostWrite 32 0 6) (idleWith ⟨false, true, false, true, 0⟩))).map
      (fun t => (statusWord t.status, t.errInfo)) = some (0x3C, 6) ∧
    (after (stepOn (.hostWrite 32 0 0x101) State.reset)).map
      (fun t => (statusWord t.status, t.errInfo, t.phase)) = some (0x34, 0x101, .idle) := by decide
/-- V6.3 and V6.4 -/
theorem test_write_config : (after (stepOn (.hostWrite 32 0x10 0x01021001) State.reset)).map (fun t => t.cfg0) =
      some ⟨0x01, 0x10, 0x02, 0x01⟩ ∧
    (after (stepOn (.hostWrite 32 0x14 0xAA332211) State.reset)).map (fun t => (rgbWord t.cfgFg, t.cfgFg.b)) =
      some (0x00332211, 0x33) := by decide
/-- V6.5 and V6.7 -/
theorem test_write_cells : (after (stepOn (.hostWrite 32 0x400 0xFFE00041) State.reset)).map (fun t => t.line1) =
      some [(0, 0x41)] ∧
    (after (stepOn (.hostWrite 32 0x10000 0x1234) State.reset)).map (fun t => t.fb) = some [(0, 0x34)] := by decide
/-- V6.2: `CFG_FG` after reset. -/
theorem test_read_fg : (after (stepOn (.hostRead 32 0x14) State.reset)).map (fun t => t.reads) = some [0x0000FFFF] := by
  decide
/-- V6.17 -/
theorem test_write_busy : (after (stepOn (.hostWrite 32 0x08 7) (sending [] 0))).map
    (fun t => (statusWord t.status, t.len1)) = some (0x09, 0) := by decide +kernel
/-- V6.19: `ERRINFO` reads 0 and `STATUS` exactly while busy. -/
theorem test_read_busy : (after (stepOn (.hostRead 32 0x28) (sending [] 0))).map (fun t => t.reads) = some [0] ∧
    (after (stepOn (.hostRead 32 0x04) (sending [] 0))).map (fun t => t.reads) = some [1] := by decide +kernel
/-- V6.21 -/
theorem test_stops : hostRead 32 0x2C State.reset = .refused (.unmappedOffset 0x2C) ∧
    hostRead 32 0x7FC State.reset = .refused (.unmappedOffset 0x7FC) ∧
    hostRead 32 0x14FE8 State.reset = .refused (.unmappedOffset 0x14FE8) ∧
    hostWrite 32 0x402 1 State.reset = .refused (.misalignedOffset 0x402) ∧
    targetAt 0x14FE4 = some (.fb 5113) := ⟨rfl, rfl, rfl, rfl, by decide⟩
/-- V8.1: the first beat and the last of the empty frame's buffer. -/
theorem test_beats : (after (stepOn (.transport true false false) (sending [] 0))).map
      (fun t => (t.received, t.pos)) = some ([⟨0x10, false⟩], 1) ∧
    (after (stepOn (.transport true false false) (sending [] 15))).map
      (fun t => (t.received, t.phase)) = some ([⟨0x0C, true⟩], .resp) := by decide +kernel
/-- V8.1: `TX OK` on the last buffer. -/
theorem test_answer_ok : (after (stepOn (.transport false true true) (awaiting []))).map
    (fun t => (statusWord t.status, t.nchunk)) = some (0x02, 1) := by decide +kernel
/-- V7.8 -/
theorem test_answer_fail : (after (stepOn (.transport false true false) (awaiting []))).map
    (fun t => (statusWord t.status, t.errInfo, t.nchunk)) = some (0x24, 0, 0) := by decide +kernel
/-- V9.2: 0x3C before. -/
theorem test_reset_event : statusWord ⟨false, false, true, true, 3⟩ = 0x3C ∧
    statusAfter (stepOn .reset (idleWith ⟨false, false, true, true, 3⟩)) = some 0 := by decide
/-- The word of BUILD placed for the next step runs BUILD as the first command after reset (R221). -/
theorem test_withFetchWord : (after (step (State.reset.withFetchWord 32 1))).map (fun t => (t.phase, t.op)) =
    some (.exec, .build) := by decide

/-! ## Witnesses: for every obligation with hypotheses, inputs that meet them, at the boundary of each clause -/

theorem inv_sending_empty (pos : Nat) (h : pos < 16) : Inv (sending [] pos) where
  busy_iff := by simp [sending, State.reset]
  not_both := by simp [sending, State.reset]
  busy_clean := by simp [sending, State.reset]
  errCode_iff := by simp [sending, State.reset]
  errInfo_zero := by simp [sending, State.reset]
  flen_le := by simp [sending, State.reset]
  crc_eq := fun _ _ => rfl
  k_lt := by simp [sending, State.reset, nchunks]
  nchunk_eq := by simp [sending, State.reset]
  op_sends := by simp [sending, State.reset]
  pos_lt := fun _ => Nat.lt_of_lt_of_le h (bufLenAt_pos _ _)

theorem inv_awaiting_empty : Inv (awaiting []) where
  busy_iff := by simp [awaiting, sending, State.reset]
  not_both := by simp [awaiting, sending, State.reset]
  busy_clean := by simp [awaiting, sending, State.reset]
  errCode_iff := by simp [awaiting, sending, State.reset]
  errInfo_zero := by simp [awaiting, sending, State.reset]
  flen_le := by simp [awaiting, sending, State.reset]
  crc_eq := fun _ _ => rfl
  k_lt := by simp [awaiting, sending, State.reset, nchunks]
  nchunk_eq := by simp [awaiting, sending, State.reset]
  op_sends := by simp [awaiting, sending, State.reset]
  pos_lt := by simp [awaiting]

theorem inv_pending (op : Op) : Inv (pending op) := by
  constructor <;> simp [pending, State.reset, Sending]

theorem inv_reset : Inv State.reset := by
  constructor <;> simp [State.reset, Sending]

theorem frameWritten_empty {s : State} (h : s.flen = 0) : FrameWritten s := by
  intro j hj; simp [h] at hj

/-- An invariant of the state does not speak of the agenda. -/
theorem inv_agenda {s : State} (h : Inv s) (a : List Event) : Inv { s with agenda := a } :=
  ⟨h.busy_iff, h.not_both, h.busy_clean, h.errCode_iff, h.errInfo_zero, h.flen_le, h.crc_eq, h.k_lt, h.nchunk_eq,
    h.op_sends, h.pos_lt⟩

theorem witness_StepRunsTheDecodedCommand : ∃ (s : State) (rest : List Event) (v : Word) (i : Instr),
    s.agenda = .hostWrite 32 0x00 v :: rest ∧ s.status.busy = false ∧ decode v = .ok i :=
  ⟨{ State.reset with agenda := [.hostWrite 32 0 4, .sequencer] }, [.sequencer], 4, .encode, rfl, rfl, by decide⟩

theorem witness_StepRunsTheAcceptedCommand : ∃ s : State, s.phase = .exec ∧ s.agenda = [] :=
  ⟨pending .crc, rfl, rfl⟩

theorem witness_AcceptanceStartsTheCommand : ∃ (op : Op) (s : State) (v : Word),
    s.phase = .idle ∧ s.status.busy = false ∧ decode v = .ok op.instr := ⟨.chunk, State.reset, 3, rfl, rfl, by decide⟩

/-- For NopChangesNothing and ClearResult: an idle and a busy block. -/
theorem witness_NopChangesNothing : ∃ s t : State, s.status.busy = false ∧ t.status.busy = true :=
  ⟨State.reset, pending .build, rfl, rfl⟩

theorem witness_IllegalCommandIsRaised : ∃ (s : State) (v w : Word) (e f : DecodeError),
    s.status.busy = false ∧ s.phase = .idle ∧ decode v = .error e ∧ decode w = .error f :=
  ⟨State.reset, 0x00000006, 0x00000100, .reservedCode 6, .nonzeroHighBits 1, rfl, rfl, by decide, by decide⟩

/-- For BuildResult and EncodeResult: no column, the largest column count, and the first count that is too large. -/
theorem witness_BuildResult : ∃ s t u : State, s.phase = .exec ∧ max s.len1.toNat s.len2.toNat ≤ 255 ∧
    t.phase = .exec ∧ max t.len1.toNat t.len2.toNat = 255 ∧ u.phase = .exec ∧ max u.len1.toNat u.len2.toNat = 256 :=
  ⟨pending .build, { pending .build with len2 := 255 }, { pending .build with len2 := 256 }, rfl, by decide, rfl,
    by decide, rfl, by decide⟩

theorem witness_EncodeResult : ∃ s t u : State, s.phase = .exec ∧ max s.len1.toNat s.len2.toNat ≤ 255 ∧
    t.phase = .exec ∧ max t.len1.toNat t.len2.toNat = 255 ∧
    u.phase = .exec ∧ max u.len1.toNat u.len2.toNat = 2 ^ 32 - 1 :=
  ⟨pending .encode, { pending .encode with len1 := 255 }, { pending .encode with len1 := 0xFFFFFFFF }, rfl, by decide,
    rfl, by decide, rfl, by decide⟩

/-- `FLEN` = 0, `FLEN` = `FB_SIZE`, and one more. -/
theorem witness_CrcResult : ∃ s t u : State, s.phase = .exec ∧ s.flen.toNat ≤ 5114 ∧ t.phase = .exec ∧
    t.flen.toNat = 5114 ∧ u.phase = .exec ∧ u.flen.toNat = 5115 :=
  ⟨pending .crc, { pending .crc with flen := 5114 }, { pending .crc with flen := 5115 }, rfl, by decide, rfl, by decide,
    rfl, by decide⟩

theorem witness_ChunkResult : ∃ s t u : State, s.phase = .exec ∧ s.flen.toNat ≤ 5114 ∧ t.phase = .exec ∧
    t.flen.toNat = 5114 ∧ u.phase = .exec ∧ u.flen.toNat = 5115 :=
  ⟨pending .chunk, { pending .chunk with flen := 5114 }, { pending .chunk with flen := 5115 }, rfl, by decide, rfl,
    by decide, rfl, by decide⟩

theorem witness_CommandFrame : ∀ i : Instr, ∃ s t : State, exec i s = .next t :=
  fun i => by cases i <;> exact ⟨pending .build, _, rfl⟩

theorem witness_LookupNeverFails : Config.hw.WellFormed ∧ Config.reference.WellFormed ∧
    (Config.reference.glyphTable 0x7E).isSome = true ∧ Config.reference.glyphTable 0x7F = none :=
  ⟨hw_wellFormed, reference_wellFormed, by decide, by decide⟩

theorem witness_ColumnLayoutLaw : Config.reference.WellFormed ∧ 1 < max ([0x41, 0x42] : List Config.reference.Code).length ([] : List Config.reference.Code).length :=
  ⟨reference_wellFormed, by decide⟩

/-- For PaddingLaw: column 0 meets the clauses of a character, column 1 those of padding. -/
theorem witness_PaddingLaw : Config.reference.WellFormed ∧ ([0x41] : List Config.reference.Code)[0]? = some 0x41 ∧ ([0x41] : List Config.reference.Code).length ≤ 1 :=
  ⟨reference_wellFormed, rfl, by decide⟩

/-- No column, and 255 columns. -/
theorem witness_FrameLengthLaw : Config.reference.WellFormed ∧ Config.reference.glyphSize = 8 ∧
    (∃ f, buildFrame Config.reference referenceCfg0 Config.defFg Config.reference.defBg [] [] = .ok f) ∧
    (∃ f, buildFrame Config.reference referenceCfg0 Config.defFg Config.reference.defBg (List.replicate 255 0x41) [] = .ok f) :=
  ⟨reference_wellFormed, rfl, ⟨_, rfl⟩, _, by
    rw [buildFrame, List.length_replicate, colCount_ok_iff.2 ⟨rfl, by decide⟩]⟩

theorem witness_TextHeaderLayout : ∃ f, buildFrame Config.reference referenceCfg0 Config.defFg Config.reference.defBg [0x41] [0x42] = .ok f ∧
    f[0]? = some 0x01 := ⟨_, rfl, rfl⟩

theorem witness_CapacityCheckIsExact :
    (∃ e, buildFrame Config.reference referenceCfg0 Config.defFg Config.reference.defBg (List.replicate 256 0x41) [] = .error e) ∧
    255 < max (List.replicate 256 (0x41 : Config.reference.Code)).length ([] : List Config.reference.Code).length :=
  ⟨⟨_, by rw [buildFrame, List.length_replicate, colCount_error_iff.2 ⟨rfl, by decide⟩]⟩,
    by rw [List.length_replicate]; decide⟩

/-- The least chunk size and the shortest frame that is not empty. -/
theorem witness_ChunkCountLaw : 1 ≤ (1 : Nat) ∧ 0 < ([0x61] : List Byte).length := by decide

/-- A frame of two slices: the clauses on every slice but the last, and on the last. -/
theorem witness_SliceLaws : 1 ≤ (1 : Nat) ∧ 0 < nchunks 1 ([0x61, 0x62] : List Byte).length - 1 := by decide

theorem witness_ChunkSequenceSizes : 1 ≤ (1 : Nat) ∧ chunkBuf 1 [] 0 ∈ chunkSeq 1 [] := by decide +kernel

/-- A frame of three chunks, the last of them short: chunks 1 and 2 are both not the first, chunks 0 and 1 both full. A frame
of two full chunks: the last clause covers its last chunk too. -/
theorem witness_HeaderConstancy : 1 ≤ (4 : Nat) ∧ 1 < nchunks 4 ten.length ∧ 2 < nchunks 4 ten.length ∧
    ¬ ShortLast 4 ten 0 ∧ ¬ ShortLast 4 ten 1 ∧ ShortLast 4 ten 2 ∧ (5 ≤ 15 ∧ 15 ≤ 15) ∧
    0 < nchunks 5 ten.length ∧ 1 + 1 = nchunks 5 ten.length ∧ ¬ ShortLast 5 ten 0 ∧ ¬ ShortLast 5 ten 1 := by
  decide

/-- The largest C, a chunk of its sequence, and a configuration one beyond it. -/
theorem witness_ReconstructionLaw : ∃ c : Nat, ∃ s : List Byte, ∃ cfg : Config, 1 ≤ c ∧ c ≤ 65519 ∧ s.length < 2 ^ 32 ∧
    chunkBuf c s 0 ∈ chunkSeq c s ∧ ¬ (1 ≤ cfg.chunkSize ∧ cfg.chunkSize ≤ 65519 ∧ cfg.fbSize < 2 ^ 32) :=
  ⟨65519, ten, { Config.reference with chunkSize := 65520 }, by decide, by decide, by decide, by decide +kernel,
    by decide⟩

theorem witness_OfferedByteIsTheBuffersByte : ∃ s : State, Inv s ∧ s.phase = .emit ∧ FrameWritten s :=
  ⟨sending [] 15, inv_sending_empty 15 (by decide), rfl, frameWritten_empty rfl⟩

theorem witness_AcceptedBeat : (sending [] 14).phase = .emit ∧ (sending [] 14).pos + 1 < bufLenAt (sending [] 14) 0 ∧
    (sending [] 15).phase = .emit ∧ (sending [] 15).pos + 1 = bufLenAt (sending [] 15) 0 := by decide +kernel

/-- A frame of two chunks, at each of them. -/
theorem witness_AnswerOkResult : ∃ s t : State,
    s.phase = .resp ∧ s.k + 1 < nchunks 4096 s.flen.toNat ∧
    t.phase = .resp ∧ nchunks 4096 t.flen.toNat ≤ t.k + 1 ∧ t.k = 1 :=
  ⟨{ awaiting [] with flen := 4097 }, { awaiting [] with flen := 4097, k := 1 }, rfl, by decide +kernel, rfl,
    by decide +kernel, rfl⟩

theorem witness_AnswerFailResult : (awaiting []).phase = .resp := rfl

theorem witness_StreamWaits : (sending [] 0).phase = .emit ∧ (awaiting []).phase = .resp ∧ (pending .chunk).phase = .exec ∧
    Sending (sending [] 0) ∧ (sending [] 0).agenda = [] := ⟨rfl, rfl, rfl, .inl rfl, rfl⟩

/-- The first clause of StreamIsTheChunkSequence: CHUNK of the empty frame starts to send. -/
theorem witness_StreamIsTheChunkSequence_start : ∃ (i : Instr) (s t : State),
    s.phase = .exec ∧ exec i s = .next t ∧ Sending t :=
  ⟨.chunk, pending .chunk, _, rfl, rfl, .inl (by decide +kernel)⟩

theorem streamSoFar_start (s : State) (hk : s.k = 0) (hp : s.pos = 0) (he : s.phase = .emit) :
    StreamSoFar s.received s :=
  ⟨fun _ => by simp [beatsOf, hk, hp], fun h => by rw [he] at h; cases h⟩

/-- Its second clause: the first byte of the empty frame's buffer is accepted. -/
theorem witness_StreamIsTheChunkSequence_step : ∃ (before : List Beat) (s t : State),
    Inv s ∧ FrameWritten s ∧ Sending s ∧ StreamSoFar before s ∧ s.agenda.head? ≠ some .reset ∧ step s = .next t ∧
    Sending t :=
  ⟨[], { sending [] 0 with agenda := [.transport true false false] }, _, inv_agenda (inv_sending_empty 0 (by decide)) _,
    frameWritten_empty rfl, .inl rfl, streamSoFar_start _ rfl rfl rfl, by decide, rfl, .inl (by decide +kernel)⟩

/-- A frame of one chunk that is not empty, for the end of an emission. -/
theorem witness_StreamIsTheChunkSequence_end : ∃ (before : List Beat) (s t : State),
    Inv s ∧ FrameWritten s ∧ Sending s ∧ StreamSoFar before s ∧ s.agenda.head? ≠ some .reset ∧ step s = .next t ∧
    ¬ Sending t :=
  ⟨[], { awaiting [] with agenda := [.transport false true true], received := beatsOf [] 1 }, _,
    ⟨inv_awaiting_empty.busy_iff, inv_awaiting_empty.not_both, inv_awaiting_empty.busy_clean,
      inv_awaiting_empty.errCode_iff, inv_awaiting_empty.errInfo_zero, inv_awaiting_empty.flen_le,
      inv_awaiting_empty.crc_eq, inv_awaiting_empty.k_lt, inv_awaiting_empty.nchunk_eq, inv_awaiting_empty.op_sends,
      inv_awaiting_empty.pos_lt⟩,
    frameWritten_empty rfl, .inr rfl, ⟨fun h => (nomatch h), fun _ => rfl⟩, by decide, rfl,
    fun h => h.elim (fun h => absurd h (by decide +kernel)) (fun h => absurd h (by decide +kernel))⟩

theorem witness_ReadyTransportReceivesTheFrame : ∃ (s : State) (rest : List Event),
    Inv s ∧ FrameWritten s ∧ s.phase = .emit ∧ s.k = 0 ∧ s.pos = 0 ∧ s.agenda = readyForFrame s.flen.toNat ++ rest :=
  ⟨{ sending [] 0 with agenda := readyForFrame 0 }, [], inv_agenda (inv_sending_empty 0 (by decide)) _,
    frameWritten_empty rfl, rfl, rfl, rfl, by simp [sending]⟩

theorem witness_EncodeSendsTheText : ∃ (s : State) (rest : List Event),
    Inv s ∧ s.phase = .exec ∧ s.op = .encode ∧ max s.len1.toNat s.len2.toNat ≤ 255 ∧
    s.agenda = .sequencer :: (readyForFrame (14 + max s.len1.toNat s.len2.toNat * 20) ++ rest) :=
  ⟨{ pending .encode with agenda := .sequencer :: readyForFrame 14 }, [], inv_agenda (inv_pending .encode) _, rfl, rfl,
    by decide, by simp [pending, State.reset]⟩

/-- For EncodeIsBuildThenChunk: an idle state whose BUILD ends well, and one whose BUILD fails. -/
theorem witness_EncodeIsBuildThenChunk : ∃ s b1 b2 t c1 c2 : State,
    s.phase = .idle ∧ exec .build s = .next b1 ∧ exec .build b1 = .next b2 ∧ b2.status.err = false ∧
    t.phase = .idle ∧ exec .build t = .next c1 ∧ exec .build c1 = .next c2 ∧ c2.status.err = true :=
  ⟨State.reset, _, _, { State.reset with len1 := 256 }, _, _, rfl, rfl, rfl, by decide +kernel, rfl, rfl, rfl,
    by decide +kernel⟩

/-- For ResultsDependOnOperandsOnly: two states that agree on the operands of all four commands and differ elsewhere. -/
theorem witness_ResultsDependOnOperandsOnly : ∃ s s' : State,
    s.phase = .exec ∧ s'.phase = .exec ∧ s ≠ s' ∧ s.len1 = s'.len1 ∧ s.len1.toNat = 1 ∧ s.len2 = s'.len2 ∧
    s.cfg0 = s'.cfg0 ∧ s.cfgFg = s'.cfgFg ∧ s.cfgBg = s'.cfgBg ∧ LinesWritten s ∧
    (∀ i, Memory.read s.line1 i = Memory.read s'.line1 i) ∧ (∀ i, Memory.read s.line2 i = Memory.read s'.line2 i) ∧
    max s.len1.toNat s.len2.toNat ≤ 255 ∧ s.flen = s'.flen ∧ FrameWritten s ∧
    (∀ j, Memory.read s.fb j = Memory.read s'.fb j) ∧ s.flen.toNat ≤ 5114 ∧
    ∀ i : Instr, ∃ t t' : State, exec i s = .next t ∧ exec i s' = .next t' :=
  ⟨{ pending .build with len1 := 1, line1 := [(0, 0x41)] },
    { pending .build with len1 := 1, line1 := [(0, 0x41)], crc := 7 },
    rfl, rfl, fun h => absurd (congrArg State.crc h) (by decide), rfl, rfl, rfl, rfl, rfl, rfl,
    ⟨fun i hi => by
        have : i = 0 := by simpa using hi
        subst this; rfl,
      fun i hi => by simp [pending, State.reset] at hi⟩,
    fun _ => rfl, fun _ => rfl, by decide, rfl, frameWritten_empty rfl, fun _ => rfl, by decide,
    fun i => by cases i <;> exact ⟨_, _, rfl, rfl⟩⟩

theorem witness_AddressMapIsExact : (0x14FE4 : Nat) % 4 = 0 ∧ (0x2C : Nat) % 4 = 0 := by decide

/-- A busy block, the first and the last mapped offset. -/
theorem witness_BusyWriteIsDropped_write : ∃ s : State,
    s.status.busy = true ∧ AccessLegal 32 0 ∧ AccessLegal 32 0x14FE4 :=
  ⟨pending .chunk, rfl, ⟨rfl, rfl, by decide⟩, ⟨rfl, rfl, by decide⟩⟩

theorem witness_IdleWriteEffects : ∃ s : State, s.status.busy = false ∧ decode 5 = .ok .clear ∧
    decode 6 = .error (.reservedCode 6) ∧ (254 : Nat) ≤ 254 ∧ (5113 : Nat) < 5114 :=
  ⟨State.reset, rfl, by decide, by decide, by decide, by decide⟩

theorem witness_IdleReadValues : ∃ s : State, s.status.busy = false ∧ Memory.read s.line1 254 = some 0x41 ∧
    Memory.read s.line2 254 = some 0x42 ∧ Memory.read s.fb 5113 = some 0x0C :=
  ⟨{ State.reset with line1 := [(254, 0x41)], line2 := [(254, 0x42)], fb := [(5113, 0x0C)] }, rfl, rfl, rfl, rfl⟩

theorem witness_BusyReadValues : ∃ s : State, s.status.busy = true ∧ Memory.read s.line1 254 = some 0x41 ∧
    Memory.read s.line2 254 = some 0x42 :=
  ⟨{ pending .build with line1 := [(254, 0x41)], line2 := [(254, 0x42)] }, rfl, rfl, rfl⟩

theorem witness_MeaninglessAccessStops : (8 : Nat) ≠ 32 ∧ (0x402 : Nat) % 4 ≠ 0 ∧ (0x14FE8 : Nat) % 4 = 0 ∧
    targetAt 0x14FE8 = none ∧ targetAt 0x2C = none ∧ targetAt 0x7FC = none ∧ targetAt 0xBFC = none := by decide

theorem witness_StepKeepsTheInvariants : ∃ s t : State, Inv s ∧ step s = .next t ∧ s ≠ t :=
  ⟨pending .build, _, inv_pending .build, rfl, fun h => absurd (congrArg State.draws h) (by decide +kernel)⟩

theorem witness_StepKeepsTheBuffersCanonical : ∃ s t : State, BuffersWf s ∧ step s = .next t ∧ s ≠ t :=
  ⟨pending .build, _, ⟨Memory.wf_nil _, Memory.wf_nil _, Memory.wf_nil _⟩, rfl,
    fun h => absurd (congrArg State.draws h) (by decide +kernel)⟩

/-- For OperandsStandStillWhileBusy: the step that builds a frame. -/
theorem witness_OperandsStandStillWhileBusy : ∃ s t : State,
    Inv s ∧ s.status.busy = true ∧ s.agenda.head? ≠ some .reset ∧ step s = .next t ∧ (t.fb ≠ s.fb ∨ t.flen ≠ s.flen) :=
  ⟨pending .build, _, inv_pending .build, rfl, by decide, rfl, .inr (by decide +kernel)⟩

/-- One change of phase from each of `IDLE`, `EXEC`, `EMIT` and `RESP`, and one by reset. -/
theorem witness_PhaseTransitions :
    (∃ s t : State, Inv s ∧ s.phase = .idle ∧ step s = .next t ∧ t.phase ≠ s.phase) ∧
    (∃ s t : State, Inv s ∧ s.phase = .exec ∧ step s = .next t ∧ t.phase ≠ s.phase) ∧
    (∃ s t : State, Inv s ∧ s.phase = .emit ∧ step s = .next t ∧ t.phase ≠ s.phase) ∧
    (∃ s t : State, Inv s ∧ s.phase = .resp ∧ step s = .next t ∧ t.phase ≠ s.phase) ∧
    (∃ s t : State, Inv s ∧ s.agenda.head? = some .reset ∧ step s = .next t ∧ t.phase ≠ s.phase) :=
  ⟨⟨{ State.reset with agenda := [.hostWrite 32 0 1] }, _, inv_agenda inv_reset _, rfl, rfl, by decide +kernel⟩,
    ⟨pending .crc, _, inv_pending .crc, rfl, rfl, by decide +kernel⟩,
    ⟨{ sending [] 15 with agenda := [.transport true false false] }, _,
      inv_agenda (inv_sending_empty 15 (by decide)) _, rfl, rfl, by decide +kernel⟩,
    ⟨{ awaiting [] with agenda := [.transport false true true] }, _, inv_agenda inv_awaiting_empty _, rfl, rfl,
      by decide +kernel⟩,
    ⟨{ pending .crc with agenda := [.reset] }, _, inv_agenda (inv_pending .crc) _, rfl, rfl, by decide +kernel⟩⟩

theorem witness_BusyWriteIsDropped_werr : ∃ s t u v : State,
    step s = .next t ∧ s.status.werr = false ∧ t.status.werr = true ∧
    step u = .next v ∧ u.status.werr = true ∧ v.status.werr = false :=
  ⟨{ pending .crc with agenda := [.hostWrite 32 8 7] }, _,
    { idleWith ⟨false, false, false, true, 0⟩ with agenda := [.hostWrite 32 0 5] }, _,
    rfl, rfl, by decide +kernel, rfl, rfl, by decide +kernel⟩

end Sys2Proof.Tests
end

section
/-! The state after reset (10_state.md R38). -/

namespace Sys2Proof.Machine

/-- R24: with every field 0 the register word of `STATUS` is 0. -/
@[simp] theorem statusWord_cleared : statusWord ⟨false, false, false, false, 0⟩ = 0 := by decide

/-! R38, R39: after reset no cell of `LINE1`, `LINE2` or `FB` holds a value. -/

@[simp] theorem read_reset_line1 (i : Nat) : Memory.read State.reset.line1 i = none := Memory.read_nil i
@[simp] theorem read_reset_line2 (i : Nat) : Memory.read State.reset.line2 i = none := Memory.read_nil i
@[simp] theorem read_reset_fb (j : Nat) : Memory.read State.reset.fb j = none := Memory.read_nil j

/-- No byte is on offer in `IDLE`. -/
theorem txValid_eq_false_of_idle {s : State} (h : s.phase = .idle) : txValid s = false := by
  simp [txValid, h]

/-- Settles O47: `STATUS` by its cleared word, the buffers by `Memory.read_nil`, the stream port by `PHASE` = `IDLE`; every
other row of the table is the value `State.reset` gives the field. -/
theorem resetValues : Obligations.ResetValues := by
  have hport : txValid State.reset = false := txValid_eq_false_of_idle rfl
  exact ⟨statusWord_cleared, rfl, rfl, rfl, rfl, rfl, rfl, rfl, rfl, rfl, rfl,
    read_reset_line1, read_reset_line2, read_reset_fb, hport⟩

end Sys2Proof.Machine
end

section
/-! The host's accesses (20_memory.md R61 to R66): which register or cell an access reaches, what a write or a read of it
does, and what may change `STATUS.WERR`. -/

namespace Sys2Proof.Machine

/-! ## Every target is reached at its offset (R61) -/

theorem exists?_line1 {i : Nat} (h : i ≤ 254) : (Target.line1 i).exists? = true :=
  decide_eq_true (Nat.lt_succ_of_le h)

theorem exists?_line2 {i : Nat} (h : i ≤ 254) : (Target.line2 i).exists? = true :=
  decide_eq_true (Nat.lt_succ_of_le h)

theorem exists?_fb {j : Nat} (h : j < 5114) : (Target.fb j).exists? = true := by
  simpa [Target.exists?] using h

/-- R61: a 32-bit access at the offset of a register or cell that exists is an access to it. -/
theorem hostAccess_offset {tgt : Target} (h : tgt.exists? = true) (act : Target → Result) :
    hostAccess 32 tgt.offset act = act tgt := by
  cases tgt with
  | line1 i => exact hostAccess_line1 (of_decide_eq_true h) act
  | line2 i => exact hostAccess_line2 (of_decide_eq_true h) act
  | fb j => exact hostAccess_fb (by simpa [Target.exists?] using h) act
  | _ => rfl

/-- R61: the offset of `CMD` is 0, and no other offset reaches it. -/
theorem eq_zero_of_targetAt_cmd {off : Nat} (h : targetAt off = some .cmd) : off = 0 := by
  unfold targetAt at h
  split at h
  · unfold registerAt at h
    split at h <;> cases h
    rfl
  · split_ifs at h <;> cases h

/-! ## A write, by `BUSY` (R63, R65) -/

/-- A legal access whose effect is one for every target has that effect. -/
theorem hostAccess_eq_of_forall {width off : Nat} {act : Target → Result} {r : Result} (ha : AccessLegal width off)
    (h : ∀ tgt, act tgt = r) : hostAccess width off act = r := by
  obtain ⟨tgt, -, hact⟩ := hostAccess_legal (act := act) ha
  rw [hact, h]

/-- R65: a write to a mapped offset is dropped while `BUSY` = 1. -/
theorem hostWrite_busy {off : Nat} {s : State} (hb : s.status.busy = true) (ha : AccessLegal 32 off) (v : Word) :
    hostWrite 32 off v s = .next (dropWrite s) :=
  hostAccess_eq_of_forall ha fun _ => if_pos hb

/-- R63: a write to an existing target while `BUSY` = 0, before the command port is told from the other targets. -/
theorem stepOn_hostWrite_idle {tgt : Target} {s : State} (hb : s.status.busy = false) (h : tgt.exists? = true)
    (v : Word) : stepOn (.hostWrite 32 tgt.offset v) s =
      if tgt = .cmd then commandWrite v s else .next (writeTarget tgt v s) :=
  (hostAccess_offset h _).trans (by simp [hb])

/-- R63, R220: a write to `CMD` while `BUSY` = 0 goes to the command port. -/
theorem stepOn_hostWrite_cmd {s : State} (hb : s.status.busy = false) (v : Word) :
    stepOn (.hostWrite 32 0x00 v) s = commandWrite v s :=
  stepOn_hostWrite_idle (tgt := .cmd) hb rfl v

/-- R63: a write to any other target while `BUSY` = 0 is that target's effect. -/
theorem stepOn_hostWrite_target {tgt : Target} {s : State} (hb : s.status.busy = false) (h : tgt.exists? = true)
    (hc : tgt ≠ .cmd) (v : Word) : stepOn (.hostWrite 32 tgt.offset v) s = .next (writeTarget tgt v s) :=
  (stepOn_hostWrite_idle hb h v).trans (if_neg hc)

/-- Settles O41: `CMD` by the command port, every other target by `stepOn_hostWrite_target`, and the cells of the three
buffers by what a cell write leaves to later reads. -/
theorem idleWriteEffects : Obligations.IdleWriteEffects := by
  intro s v hb
  have hcmd := stepOn_hostWrite_cmd hb v
  have hwrite (tgt : Target) (h : tgt.exists? = true) (hc : tgt ≠ .cmd) :
      stepOn (.hostWrite 32 tgt.offset v) s = .next (writeTarget tgt v s) := stepOn_hostWrite_target hb h hc v
  refine ⟨fun i hi => ?_, fun e he => ?_, hwrite .status rfl nofun, hwrite .len1 rfl nofun, hwrite .len2 rfl nofun,
    hwrite .cfg0 rfl nofun, hwrite .cfgFg rfl nofun, hwrite .cfgBg rfl nofun, hwrite .flen rfl nofun,
    hwrite .crc rfl nofun, hwrite .nchunk rfl nofun, hwrite .errInfo rfl nofun,
    fun i hi => ?_, fun i hi => ?_, fun j hj => ?_⟩
  · rw [hcmd, commandWrite, hi]
  · rw [hcmd, commandWrite, he]
  · exact ⟨_, hwrite (.line1 i) (exists?_line1 hi) nofun, Memory.read_write i (codeOfWord v) s.line1⟩
  · exact ⟨_, hwrite (.line2 i) (exists?_line2 hi) nofun, Memory.read_write i (codeOfWord v) s.line2⟩
  · exact ⟨_, hwrite (.fb j) (exists?_fb hj) nofun, Memory.read_write j (byteOfWord v) s.fb⟩

/-! ## A read, by `BUSY` (R64, R66) -/

theorem readValue_idle {s : State} (hb : s.status.busy = false) (tgt : Target) : readValue tgt s = idleRead tgt s := by
  simp [readValue, hb]

theorem readValue_busy {s : State} (hb : s.status.busy = true) (tgt : Target) : readValue tgt s = busyRead tgt s := by
  simp [readValue, hb]

/-- R64, R66: a read answers the value of its target and changes nothing of the block. -/
theorem stepOn_hostRead {tgt : Target} (h : tgt.exists? = true) (s : State) :
    stepOn (.hostRead 32 tgt.offset) s =
      .next { s with reads := s.reads ++ [readValue tgt s], draws := s.draws + 1 } :=
  hostAccess_offset h _

/-- A written line cell is read exactly (R64, R66). -/
theorem lineCode_of_read {buf : List (Nat × Code)} {i : Nat} {x : Code} (h : Memory.read buf i = some x)
    (line draws : Nat) : lineCode line buf draws i = x := by
  simp [lineCode, h]

/-- A written cell of `FB` is read exactly (R64). -/
theorem fbByte_of_read {s : State} {j : Nat} {x : Byte} (h : Memory.read s.fb j = some x) : fbByte s j = x := by
  simp [fbByte, h]

/-- Settles O42: every read answers `idleRead` of its target; a cell of a buffer is read through `lineCode` or `fbByte`,
exact where it is written. -/
theorem idleReadValues : Obligations.IdleReadValues := by
  intro s hb answer
  have hread (tgt : Target) (h : tgt.exists? = true) :
      stepOn (.hostRead 32 tgt.offset) s = answer (idleRead tgt s) := by
    rw [stepOn_hostRead h, readValue_idle hb]
  refine ⟨hread .cmd rfl, hread .status rfl, hread .len1 rfl, hread .len2 rfl, hread .cfg0 rfl, hread .cfgFg rfl,
    hread .cfgBg rfl, hread .flen rfl, hread .crc rfl, hread .nchunk rfl, hread .errInfo rfl,
    fun i hi => ?_, fun i hi => ?_, fun j hj => ?_⟩
  · exact ⟨_, hread (.line1 i) (exists?_line1 hi), fun x hx => lineCode_of_read hx 1 s.draws⟩
  · exact ⟨_, hread (.line2 i) (exists?_line2 hi), fun x hx => lineCode_of_read hx 2 s.draws⟩
  · exact ⟨_, hread (.fb j) (exists?_fb hj), fun x hx => fbByte_of_read hx⟩

/-- Settles O43: every read answers `busyRead` of its target, which is `idleRead` for the operands and the configuration
and a draw for the frame and its results. -/
theorem busyReadValues : Obligations.BusyReadValues := by
  intro s hb answer
  have hread (tgt : Target) (h : tgt.exists? = true) :
      stepOn (.hostRead 32 tgt.offset) s = answer (busyRead tgt s) := by
    rw [stepOn_hostRead h, readValue_busy hb]
  refine ⟨hread .cmd rfl, hread .status rfl, hread .len1 rfl, hread .len2 rfl, hread .cfg0 rfl, hread .cfgFg rfl,
    hread .cfgBg rfl, hread .errInfo rfl, fun off hoff => ?_, fun i hi => ?_, fun i hi => ?_⟩
  · obtain rfl | rfl | rfl | ⟨j, hj, rfl⟩ := hoff
    · exact ⟨_, hread .flen rfl⟩
    · exact ⟨_, hread .crc rfl⟩
    · exact ⟨_, hread .nchunk rfl⟩
    · exact ⟨_, hread (.fb j) (exists?_fb hj)⟩
  · exact ⟨_, hread (.line1 i) (exists?_line1 hi), fun x hx => lineCode_of_read hx 1 s.draws⟩
  · exact ⟨_, hread (.line2 i) (exists?_line2 hi), fun x hx => lineCode_of_read hx 2 s.draws⟩

/-! ## What may change `STATUS.WERR` (R260) -/

@[simp] theorem buildBody_werr (s : State) : (buildBody s).status.werr = s.status.werr := by
  unfold buildBody; split <;> simp

@[simp] theorem crcBody_werr (s : State) : (crcBody s).status.werr = s.status.werr := by
  unfold crcBody; split <;> simp

@[simp] theorem chunkBody_werr (s : State) : (chunkBody s).status.werr = s.status.werr := by
  unfold chunkBody; split <;> simp

@[simp] theorem encodeBody_werr (s : State) : (encodeBody s).status.werr = s.status.werr := by
  unfold encodeBody; split <;> simp

theorem Op.instr_ne_clear (op : Op) : op.instr ≠ .clear := by cases op <;> decide

/-- No command but CLEAR writes `WERR` (R221, R225, R228, R256). -/
theorem exec_werr_of_ne_clear {i : Instr} {s t : State} (hi : i ≠ .clear) (h : exec i s = .next t) :
    t.status.werr = s.status.werr := by
  obtain ⟨-, rfl⟩ | ⟨rfl, -⟩ | ⟨op, -, ⟨-, rfl⟩ | ⟨-, rfl⟩ | ⟨-, rfl⟩⟩ := exec_cases h
  · rfl
  · exact absurd rfl hi
  · simp
  · cases op <;> simp
  · rfl

/-- CLEAR clears `WERR` (R228). -/
theorem exec_clear_werr {s t : State} (h : exec .clear s = .next t) : t.status.werr = false := by
  cases h; rfl

/-- The sequencer's turn is the command it runs, or nothing (R222, R263). -/
theorem sequencerStep_next {s t : State} (h : sequencerStep s = .next t) : t = s ∨ exec s.op.instr s = .next t := by
  unfold sequencerStep at h
  split at h
  · cases h; exact .inl rfl
  all_goals exact .inr h

theorem sequencerStep_werr {s t : State} (h : sequencerStep s = .next t) : t.status.werr = s.status.werr := by
  obtain rfl | h := sequencerStep_next h
  · rfl
  · exact exec_werr_of_ne_clear (Op.instr_ne_clear _) h

@[simp] theorem beat_status (s : State) : (beat s).status = s.status := by
  unfold beat; split_ifs <;> rfl

@[simp] theorem answerOk_werr (s : State) : (answerOk s).status.werr = s.status.werr := by
  unfold answerOk; split_ifs <;> rfl

@[simp] theorem answerFail_werr (s : State) : (answerFail s).status.werr = s.status.werr := rfl

@[simp] theorem transportStep_werr (rdy vld ok : Bool) (s : State) :
    (transportStep rdy vld ok s).status.werr = s.status.werr := by
  obtain h | ⟨-, -, h⟩ | ⟨-, -, -, h⟩ | ⟨-, -, -, h⟩ := transportStep_cases rdy vld ok s <;> simp [h]

/-- The move `e`, made in state `s`, is a host write that the block drops (R65). -/
def DroppedWrite (e : Event) (s : State) : Prop := s.status.busy = true ∧ ∃ off v, e = .hostWrite 32 off v

/-- The move `e`, made in state `s`, is a `CMD` write of CLEAR that the block takes (R220, R228). -/
def ClearWrite (e : Event) (s : State) : Prop :=
  s.status.busy = false ∧ ∃ v, e = .hostWrite 32 0x00 v ∧ decode v = .ok .clear

/-- A host write sets `WERR` where it is dropped, clears it where it is CLEAR, and else leaves it (R65, R228). -/
theorem hostWrite_werr {width off : Nat} {v : Word} {s t : State} (h : hostWrite width off v s = .next t) :
    t.status.werr = s.status.werr ∨
    (t.status.werr = true ∧ DroppedWrite (.hostWrite width off v) s) ∨
    (t.status.werr = false ∧ ClearWrite (.hostWrite width off v) s) := by
  obtain ⟨rfl, -, -⟩ := hostAccess_next h
  obtain ⟨tgt, htgt, ⟨hb, rfl⟩ | ⟨hb, rfl, ⟨i, hi, hx⟩ | ⟨e, -, rfl⟩⟩ | ⟨-, -, rfl⟩⟩ := hostWrite_cases h
  · exact .inr (.inl ⟨rfl, hb, off, v, rfl⟩)
  · obtain rfl := eq_zero_of_targetAt_cmd htgt
    by_cases hc : i = .clear
    · subst hc
      exact .inr (.inr ⟨exec_clear_werr hx, hb, v, rfl, hi⟩)
    · exact .inl (exec_werr_of_ne_clear hc hx)
  · exact .inl rfl
  · exact .inl (congrArg Status.werr (writeTarget_frame tgt v s).1)

/-- R260: of all moves only a dropped write sets `WERR`, and only reset and CLEAR clear it. -/
theorem eventStep_werr {e : Event} {s t : State} (h : eventStep e s = .next t) :
    t.status.werr = s.status.werr ∨ (t.status.werr = true ∧ DroppedWrite e s) ∨
    (t.status.werr = false ∧ (e = .reset ∨ ClearWrite e s)) := by
  cases e with
  | hostRead width off =>
    obtain ⟨tgt, -, rfl⟩ := hostRead_cases h
    exact .inl rfl
  | hostWrite width off v => exact (hostWrite_werr h).imp_right (.imp_right (.imp_right .inr))
  | sequencer => exact .inl (sequencerStep_werr h)
  | transport rdy vld ok =>
    cases h
    exact .inl (transportStep_werr rdy vld ok s)
  | reset =>
    cases h
    exact .inr (.inr ⟨rfl, .inl rfl⟩)

/-- A step that changes `WERR` is a move of the environment: a dropped write, reset, or CLEAR (R260). -/
theorem step_werr {s t : State} (h : step s = .next t) :
    t.status.werr = s.status.werr ∨ ∃ e, s.agenda.head? = some e ∧
      ((t.status.werr = true ∧ DroppedWrite e s) ∨ (t.status.werr = false ∧ (e = .reset ∨ ClearWrite e s))) := by
  cases ha : s.agenda with
  | nil => exact .inl (sequencerStep_werr ((step_nil ha).symm.trans h))
  | cons e rest => exact (eventStep_werr ((step_cons ha).symm.trans h)).imp_right fun hc => ⟨e, rfl, hc⟩

/-- Settles O40: the dropped write by `hostWrite_busy`, the changes of `WERR` by `step_werr`. -/
theorem busyWriteIsDropped : Obligations.BusyWriteIsDropped := by
  refine ⟨fun s off v hb ha => hostWrite_busy hb ha v, fun s t h => ⟨fun h0 h1 => ?_, fun h1 h0 => ?_⟩⟩
  · obtain hk | ⟨e, he, ⟨-, hb, off, v, rfl⟩ | ⟨hf, -⟩⟩ := step_werr h
    · cases h1.symm.trans (hk.trans h0)
    · exact ⟨hb, off, v, he⟩
    · cases h1.symm.trans hf
  · obtain hk | ⟨e, he, ⟨ht, -⟩ | ⟨-, rfl | ⟨hb, v, rfl, hv⟩⟩⟩ := step_werr h
    · cases h0.symm.trans (hk.trans h1)
    · cases h0.symm.trans ht
    · exact .inl he
    · exact .inr ⟨hb, v, he, hv⟩

end Sys2Proof.Machine
end

section
/-! The text header at the front of every frame (30_encoding.md R95). -/

namespace Sys2Proof.Machine

/-- A frame `BUILDFRAME` gives is the header of its column count, which fits a byte, and then the columns (R150, R154). -/
theorem buildFrame_ok {cfg : Config} {c : Cfg0} {fg bg : Rgb} {line1 line2 : List cfg.Code} {f : List Byte}
    (h : buildFrame cfg c fg bg line1 line2 = .ok f) :
    max line1.length line2.length ≤ 255 ∧
    f = textHdr (max line1.length line2.length) c fg bg ++ assemble cfg line1 line2 := by
  unfold buildFrame at h
  split at h
  case h_1 => cases h
  case h_2 n hn =>
    obtain ⟨rfl, hle⟩ := colCount_ok_iff.1 hn
    cases h
    exact ⟨hle, rfl⟩

/-- Byte 0 of the header is the column count itself, not only modulo 256 (R95, R150). -/
theorem toNat_countByte {n : Nat} (h : n ≤ 255) : (BitVec.ofNat 8 n).toNat = n :=
  Nat.mod_eq_of_lt (Nat.lt_succ_of_le h)

/-- Bytes 0 and 1 of the header, read little-endian, are the column count (R95). -/
theorem leValue_textHdr_count {n : Nat} (h : n ≤ 255) (c : Cfg0) (fg bg : Rgb) (rest : List Byte) :
    leValue (seqSlice (textHdr n c fg bg ++ rest) 0 2) = n := by
  have hslice : seqSlice (textHdr n c fg bg ++ rest) 0 2 = [BitVec.ofNat 8 n, 0x00] := rfl
  rw [hslice]
  simp [leValue, toNat_countByte h]

/-- Settles O20: the frame is `textHdr` and then its columns, and the column count, at most 255, survives its byte. -/
theorem textHeaderLayout : Obligations.TextHeaderLayout := by
  intro cfg c fg bg line1 line2 f h
  obtain ⟨hle, rfl⟩ := buildFrame_ok h
  refine ⟨leValue_textHdr_count hle c fg bg _, fun b hb => ?_,
    rfl, rfl, rfl, rfl, rfl, rfl, rfl, rfl, rfl, rfl, rfl, rfl, rfl⟩
  obtain rfl : BitVec.ofNat 8 (max line1.length line2.length) = b := Option.some.inj hb
  exact toNat_countByte hle

end Sys2Proof.Machine
end

section
/-! The glyph lookup and its fallback (40_glyph_lookup.md R130). -/

namespace Sys2Proof.Machine

/-- R130, first arm: a code the table holds gets its own glyph. -/
theorem lookup_of_some {cfg : Config} {c : cfg.Code} {g : List Byte} (hc : cfg.glyphTable c = some g) :
    lookup cfg c = g := by
  simp [lookup, hc]

/-- R130, second arm: a code the table does not hold gets the glyph the table gives `SPACE`. -/
theorem lookup_of_none {cfg : Config} {c : cfg.Code} {g : List Byte} (hc : cfg.glyphTable c = none)
    (hs : cfg.glyphTable cfg.space = some g) : lookup cfg c = g := by
  simp [lookup, hc, hs]

/-- Settles O15: the length by `length_lookup`, each arm of R130 by its lemma; that `GT(SPACE)` is defined (R8) makes the
second arm total and its glyph the one `LOOKUP(SPACE)` gives. -/
theorem lookupNeverFails : Obligations.LookupNeverFails := by
  intro cfg hwf c
  obtain ⟨sp, hsp⟩ := Option.isSome_iff_exists.1 hwf.space_defined
  refine ⟨length_lookup hwf c, fun g hc => lookup_of_some hc, fun hc => ?_⟩
  have hfallback : lookup cfg c = sp := lookup_of_none hc hsp
  exact ⟨(congrArg some hfallback).trans hsp.symm, hfallback.trans (lookup_of_some hsp).symm⟩

end Sys2Proof.Machine
end

section
/-! The bitmap-column interleaver (41_column_interleaver.md R140 to R144): where a column lies in `ASSEMBLE`, and which
glyphs it holds before and past the end of a line. -/

namespace Sys2Proof.Machine

/-- R140: past the end of a line every character is `SPACE`. -/
theorem charAt_of_length_le {cfg : Config} {l : List cfg.Code} {i : Nat} (h : l.length ≤ i) :
    charAt cfg l i = cfg.space := by
  simp [charAt, List.getElem?_eq_none h]

/-- R140: before the end of a line a character is the line's own. -/
theorem charAt_of_getElem?_eq_some {cfg : Config} {l : List cfg.Code} {i : Nat} {c : cfg.Code}
    (h : l[i]? = some c) : charAt cfg l i = c := by
  simp [charAt, h]

/-- R142, R143: all columns are `COLLEN` bytes long, so column i of `ASSEMBLE` lies at i·COLLEN. -/
theorem seqSlice_assemble {cfg : Config} (h : cfg.WellFormed) (line1 line2 : List cfg.Code) {i : Nat}
    (hi : i < max line1.length line2.length) :
    seqSlice (assemble cfg line1 line2) (i * cfg.colLen) ((i + 1) * cfg.colLen) = column cfg line1 line2 i :=
  seqSlice_flatMap (column cfg line1 line2) cfg.colLen (length_column h line1 line2) _ i hi

/-- Settles O16: the bytes at i·COLLEN are `COLUMN(line1, line2, i)`, whose three parts are those of `column_fields`. -/
theorem columnLayoutLaw : Obligations.ColumnLayoutLaw := by
  intro cfg hwf line1 line2 i hi
  rw [seqSlice_assemble hwf line1 line2 hi]
  exact column_fields hwf line1 line2 i

/-- Settles O17: a line's place in the column holds `LOOKUP` of its `CHARAT`, which is `SPACE` past the line's end and the
line's own character before it. -/
theorem paddingLaw : Obligations.PaddingLaw := by
  intro cfg hwf line1 line2 i
  obtain ⟨-, hglyph1, hglyph2⟩ := column_fields hwf line1 line2 i
  rw [hglyph1, hglyph2]
  exact ⟨fun h => congrArg (lookup cfg) (charAt_of_length_le h),
    fun h => congrArg (lookup cfg) (charAt_of_length_le h),
    fun _ h => congrArg (lookup cfg) (charAt_of_getElem?_eq_some h),
    fun _ h => congrArg (lookup cfg) (charAt_of_getElem?_eq_some h)⟩

end Sys2Proof.Machine
end

section
/-! The text-frame assembler: the length of a frame (42_frame_assembler.md R155) and the command BUILD (R150, R156). -/

namespace Sys2Proof.Machine

/-! ## The length law (R155) -/

/-- Every frame `BUILDFRAME` gives has the length of the law, for N the longer line. -/
theorem length_of_buildFrame_ok {cfg : Config} (hwf : cfg.WellFormed) {c : Cfg0} {fg bg : Rgb}
    {line1 line2 : List cfg.Code} {f : List Byte} (h : buildFrame cfg c fg bg line1 line2 = .ok f) :
    f.length = frameLen cfg (max line1.length line2.length) := by
  obtain ⟨-, rfl⟩ := buildFrame_ok h
  exact length_frame hwf _ c fg bg line1 line2

/-- The law where a glyph has 8 bytes: a column takes 20. -/
theorem frameLen_of_glyphSize_eq {cfg : Config} (hg : cfg.glyphSize = 8) (n : Nat) : frameLen cfg n = 14 + n * 20 := by
  rw [frameLen, hg]

/-- With 8-byte glyphs no column count gives one full chunk of 4096 bytes: 4096 - 14 is no multiple of 20. -/
theorem frameLen_ne_4096 {cfg : Config} (hg : cfg.glyphSize = 8) (n : Nat) : frameLen cfg n ≠ 4096 := by
  rw [frameLen_of_glyphSize_eq hg]
  omega

/-- Settles O19: the length by `length_of_buildFrame_ok`; with `G` = 8 the law is 14 + 20·N, which gives the six values
and never 4096. -/
theorem frameLengthLaw : Obligations.FrameLengthLaw := by
  intro cfg hwf c fg bg line1 line2 f h
  have hlen := length_of_buildFrame_ok hwf h
  refine ⟨hlen, fun _ => rfl, fun hg => ⟨hlen ▸ frameLen_ne_4096 hg _, ?_⟩⟩
  simp [frameLen_of_glyphSize_eq hg]

/-! ## What is stored (R156) -/

/-- Below its length the stored frame is what `FB` holds. -/
theorem read_storeFrame_of_lt {f : List Byte} {j : Nat} (h : j < f.length) (s : State) :
    Memory.read (storeFrame f s).fb j = f[j]? := by
  simp [Memory.read_writeRange, h]

/-- At and above the length of the stored frame `FB` keeps its cells. -/
theorem read_storeFrame_of_le {f : List Byte} {j : Nat} (h : f.length ≤ j) (s : State) :
    Memory.read (storeFrame f s).fb j = Memory.read s.fb j := by
  simp [Memory.read_writeRange, Nat.not_lt.2 h]

/-! ## BUILD in its `EXEC` step (R156) -/

/-- Within the capacity BUILD stores the composed frame and ends well. -/
theorem buildBody_of_le {s : State} (h : max s.len1.toNat s.len2.toNat ≤ 255) :
    buildBody s = goodEnd (tick (storeFrame (composeFrame (max s.len1.toNat s.len2.toNat) s) s)) := by
  rw [buildBody, colCount_ok_iff.2 ⟨rfl, h⟩]

/-- Beyond the capacity BUILD raises CapacityExceeded(N) and does nothing else. -/
theorem buildBody_of_lt {s : State} (h : 255 < max s.len1.toNat s.len2.toNat) :
    buildBody s = raise (.capacityExceeded (max s.len1.toNat s.len2.toNat)) s := by
  rw [buildBody, colCount_error_iff.2 ⟨rfl, h⟩]

/-- In `EXEC` the meaning of BUILD is its computation (R222). -/
theorem exec_build_of_exec {s : State} (h : s.phase = .exec) : exec .build s = .next (buildBody s) := by
  rw [exec, execBuild, runCommand_exec h]

/-- Settles O10: the two ends of the capacity check are `buildBody_of_le` and `buildBody_of_lt`; at the good end the frame
is `BUILDFRAME` of the operands and `FB` reads back as it below its length, as before from there on. -/
theorem buildResult : Obligations.BuildResult := by
  intro s hexec
  rw [exec_build_of_exec hexec]
  refine ⟨fun hle => ?_, fun hlt => ?_⟩
  · rw [buildBody_of_le hle]
    exact ⟨composeFrame _ s, _, buildFrame_operands (colCount_ok_iff.2 ⟨rfl, hle⟩), rfl,
      fun _ hj => read_storeFrame_of_lt hj s, fun _ hj => read_storeFrame_of_le hj s⟩
  · rw [buildBody_of_lt hlt]
    rfl

end Sys2Proof.Machine
end

section
/-! The table form of the checksum (43_checksum.md R171). The shift steps are linear (`crcShifts_xor`), so a remainder splits
into its low byte, whose eight steps are the table's entry, and its high bits, which the eight steps only shift. -/

namespace Sys2Proof.Machine

/-- A byte has no bit at or above 8, so nothing of it is left when the remainder is shifted down by 8. -/
theorem zext_byte_ushiftRight_eight (b : Byte) : b.setWidth 32 >>> 8 = (0 : Word) := by
  ext
  simp

/-- A remainder is its low byte and, apart from it, its high bits in their place. -/
theorem word_eq_lowByte_xor_high (x : Word) : x = (x.extractLsb' 0 8).setWidth 32 ^^^ (x >>> 8 <<< 8) := by
  refine BitVec.eq_of_getLsbD_eq fun i hi => ?_
  by_cases h : i < 8
  · simp [h, hi]
  · simp [h, hi, Nat.add_sub_cancel' (Nat.not_lt.1 h)]

/-- The bits at and above 8, put back in their place, shift down again to the same. -/
theorem high_ushiftRight_eight (x : Word) : x >>> 8 <<< 8 >>> 8 = x >>> 8 := by
  refine BitVec.eq_of_getLsbD_eq fun i _ => ?_
  by_cases h : 8 + i < 32
  · simp [h]
  · simp [h, BitVec.getLsbD_of_ge x _ (Nat.not_lt.1 h)]

/-- The high bits reach bit 0 in none of the eight shift steps, so the steps only shift them. -/
theorem crcShifts_eight_high (x : Word) : crcShifts 8 (x >>> 8 <<< 8) = x >>> 8 := by
  have hlow : ∀ i, i < 8 → (x >>> 8 <<< 8).getLsbD i = false := fun i hi => by simp [hi]
  rw [crcShifts_of_low_zero 8 _ hlow, high_ushiftRight_eight]

/-- Eight shift steps: the table at the low byte, and the high bits shifted (R171). -/
theorem crcShifts_eight_eq_table (x : Word) : crcShifts 8 x = crcTable (x.extractLsb' 0 8) ^^^ (x >>> 8) := by
  conv_lhs => rw [word_eq_lowByte_xor_high x]
  rw [crcShifts_xor, crcShifts_eight_high, crcTable]

/-- R171: `CRCBYTE` by the table: the byte lands in bits 7:0, so the bits shifted down are those of `r`. -/
theorem crcByte_eq_table (r : Word) (b : Byte) :
    crcByte r b = crcTable ((r ^^^ b.setWidth 32).extractLsb' 0 8) ^^^ (r >>> 8) := by
  have hhigh : (r ^^^ b.setWidth 32) >>> 8 = r >>> 8 := by
    rw [BitVec.ushiftRight_xor_distrib, zext_byte_ushiftRight_eight]
    exact BitVec.xor_zero
  rw [crcByte, crcShifts_eight_eq_table, hhigh]

/-- R171: an entry of the table is `CRCBYTE` of its index and the byte 0. -/
theorem crcTable_eq_crcByte_zero (n : Byte) : crcTable n = crcByte (n.setWidth 32) 0x00#8 := by
  simp [crcTable, crcByte]

/-- Settles O21: the table's definition by `crcTable_eq_crcByte_zero`, the equality of the two forms by `crcByte_eq_table`;
the four entries are closed facts. -/
theorem crcTableForm : Obligations.CrcTableForm :=
  ⟨crcTable_eq_crcByte_zero, crcByte_eq_table, by decide, by decide, by decide, by decide⟩

end Sys2Proof.Machine
end

section
/-! The command CRC in its `EXEC` step (43_checksum.md R175, R176). -/

namespace Sys2Proof.Machine

/-- With a `FLEN` that `FB` holds CRC stores the checksum of the frame and ends well. -/
theorem crcBody_of_le {s : State} (h : s.flen.toNat ≤ 5114) :
    crcBody s = goodEnd (tick { s with crc := crc32 (frameOperand s) }) := by
  rw [crcBody, checkFlen_ok_iff.2 ⟨rfl, h⟩]

/-- With a larger `FLEN` CRC raises FrameRange(FLEN) and does nothing else. -/
theorem crcBody_of_lt {s : State} (h : 5114 < s.flen.toNat) : crcBody s = raise (.frameRange s.flen) s := by
  rw [crcBody, checkFlen_error_iff.2 ⟨rfl, h⟩]

/-- In `EXEC` the meaning of CRC is its computation (R222). -/
theorem exec_crc_of_exec {s : State} (h : s.phase = .exec) : exec .crc s = .next (crcBody s) := by
  rw [exec, execCrc, runCommand_exec h]

/-- Settles O11: the two ends of `CHECKFLEN` are `crcBody_of_le` and `crcBody_of_lt`. -/
theorem crcResult : Obligations.CrcResult := by
  intro s hexec
  rw [exec_crc_of_exec hexec]
  refine ⟨fun hle => ?_, fun hlt => ?_⟩
  · rw [crcBody_of_le hle]
    rfl
  · rw [crcBody_of_lt hlt]
    rfl

end Sys2Proof.Machine
end

section
/-! The number of chunks (44_chunk_splitter.md R185), the slices (R187) and the headers (R191), and that the chunk sequence
gives back the frame (R193). -/

namespace Sys2Proof.Machine

/-! ## The number of chunks (R185) -/

@[simp] theorem nchunks_zero (c : Nat) : nchunks c 0 = 1 := if_pos rfl

/-- R185, R13: for a frame with bytes `NCHUNKS` is the ceiling, the least number of slices that hold them. -/
theorem nchunks_le_iff {c len : Nat} (hc : 1 ≤ c) (hlen : 0 < len) (q : Nat) : nchunks c len ≤ q ↔ len ≤ q * c := by
  rw [← not_lt, lt_nchunks_iff hc, not_or, not_lt]
  refine ⟨And.right, fun h => ⟨?_, h⟩⟩
  rintro rfl
  omega

/-- The chunks of a frame hold all its bytes (R185). -/
theorem le_nchunks_mul {c : Nat} (hc : 1 ≤ c) (len : Nat) : len ≤ nchunks c len * c := by
  obtain rfl | hlen := Nat.eq_zero_or_pos len
  · exact Nat.zero_le _
  · exact (nchunks_le_iff hc hlen _).1 le_rfl

/-- Settles O23: the chunks hold the frame by `le_nchunks_mul`, and no fewer do by `nchunks_le_iff`. -/
theorem chunkCountLaw : Obligations.ChunkCountLaw := by
  intro c hc
  exact ⟨nchunks_zero c, fun len hlen => ⟨le_nchunks_mul hc len, fun q => (nchunks_le_iff hc hlen q).2⟩⟩

/-! ## The slices (R187) -/

/-- All slices together are the frame (R187). -/
theorem flatMap_slice_nchunks {c : Nat} (hc : 1 ≤ c) (s : List Byte) :
    (List.range (nchunks c s.length)).flatMap (slice c s) = s := by
  rw [flatMap_slice, List.take_of_length_le (le_nchunks_mul hc s.length)]

theorem length_slice_le (c : Nat) (s : List Byte) (k : Nat) : (slice c s k).length ≤ c := by
  rw [length_slice]
  exact Nat.min_le_left _ _

/-- A slice before the last is full: the next one still starts inside the frame (R187). -/
theorem length_slice_of_succ_lt {c : Nat} (hc : 1 ≤ c) {s : List Byte} {k : Nat} (h : k + 1 < nchunks c s.length) :
    (slice c s k).length = c := by
  have hnext : (k + 1) * c < s.length := ((lt_nchunks_iff hc _ _).1 h).resolve_left (Nat.succ_ne_zero k)
  rw [Nat.succ_mul] at hnext
  rw [length_slice]
  omega

/-- The last slice holds what the full ones leave (R187). -/
theorem length_slice_of_succ_eq {c : Nat} (hc : 1 ≤ c) {s : List Byte} {k : Nat} (h : k + 1 = nchunks c s.length) :
    (slice c s k).length = s.length - k * c := by
  have hall : s.length ≤ (k + 1) * c := h ▸ le_nchunks_mul hc s.length
  rw [Nat.succ_mul] at hall
  rw [length_slice]
  omega

/-- Settles O24: the concatenation by `flatMap_slice_nchunks`, whose length is the sum; the lengths by the place of the
slice, before the last or the last. -/
theorem sliceLaws : Obligations.SliceLaws := by
  intro c hc s n
  have hjoin : (List.range n).flatMap (slice c s) = s := flatMap_slice_nchunks hc s
  refine ⟨hjoin, ?_, fun k hk => length_slice_of_succ_lt hc (Nat.add_lt_of_lt_sub hk),
    length_slice_of_succ_eq hc (Nat.sub_add_cancel (nchunks_pos hc s.length))⟩
  rw [← List.length_flatMap, hjoin]

/-! ## The headers (R191) -/

/-- The slice of a chunk in range is full unless the chunk is the short last one (R187). -/
theorem length_slice_of_not_shortLast {c : Nat} (hc : 1 ≤ c) {s : List Byte} {k : Nat} (hk : k < nchunks c s.length)
    (h : ¬ ShortLast c s k) : (slice c s k).length = c := by
  obtain hlt | heq := Nat.lt_or_eq_of_le (Nat.succ_le_of_lt hk)
  · exact length_slice_of_succ_lt hc hlt
  · exact Nat.le_antisymm (length_slice_le c s k) (Nat.not_lt.1 fun hshort => h ⟨heq, hshort⟩)

/-- The continuation byte of every chunk but the first (R188). -/
theorem cont_of_ne_zero {k : Nat} (h : k ≠ 0) : cont k = 0x02 := if_neg h

/-- Offsets 0 and 1 of a header are made from the slice length alone (R190 (a)). -/
theorem getElem?_headerBytes_of_le_one {i : Nat} (h : i ≤ 1) (sl j k len : Nat) (crc : Word) :
    (headerBytes sl j len crc)[i]? = (headerBytes sl k len crc)[i]? := by
  obtain rfl | rfl := Nat.le_one_iff_eq_zero_or_eq_one.1 h <;> rfl

/-- Offset 4 of a header is the continuation byte (R190). -/
theorem getElem?_headerBytes_four (sl k len : Nat) (crc : Word) : (headerBytes sl k len crc)[4]? = some (cont k) := rfl

/-- Offsets 2, 3 and from 5 on of a header depend on neither the slice nor the chunk's index (R190). -/
theorem getElem?_headerBytes_fixed {i : Nat} (h : i = 2 ∨ i = 3 ∨ 5 ≤ i) (sl sl' j k len : Nat) (crc : Word) :
    (headerBytes sl j len crc)[i]? = (headerBytes sl' k len crc)[i]? := by
  obtain rfl | rfl | h := h
  · rfl
  · rfl
  · obtain ⟨m, rfl⟩ := Nat.exists_eq_add_of_le' h
    rfl

/-- Settles O25: two headers of one frame carry the same length and checksum; offset 4 turns on the continuation byte, which
is one for all later chunks, and offsets 0 and 1 on the slice length, which is C unless the chunk is the short last one. -/
theorem headerConstancy : Obligations.HeaderConstancy := by
  intro c s j k hc hj hk
  refine ⟨length_headerBytes _ _ _ _, fun i hi => ?_, fun hj0 hk0 => ?_, fun hjs hks i hi => ?_⟩
  · exact getElem?_headerBytes_fixed (hi.imp_right (.imp_right And.left)) _ _ _ _ _ _
  · simp only [chunkHdr, getElem?_headerBytes_four, cont_of_ne_zero hj0, cont_of_ne_zero hk0]
  · rw [chunkHdr, chunkHdr, length_slice_of_not_shortLast hc hj hjs, length_slice_of_not_shortLast hc hk hks]
    exact getElem?_headerBytes_of_le_one hi _ _ _ _ _

/-! ## Reconstruction (R193) -/

theorem length_chunkBuf (c : Nat) (s : List Byte) (k : Nat) : (chunkBuf c s k).length = (slice c s k).length + 16 := by
  simp [chunkBuf, chunkHdr, Nat.add_comm]

/-- What follows the header of a buffer is its slice (R192). -/
theorem drop_chunkBuf (c : Nat) (s : List Byte) (k : Nat) : (chunkBuf c s k).drop 16 = slice c s k :=
  List.drop_left' (length_headerBytes _ _ _ _)

/-- Headers dropped, the buffers concatenated are the frame (R193). -/
theorem flatMap_drop_chunkSeq {c : Nat} (hc : 1 ≤ c) (s : List Byte) : (chunkSeq c s).flatMap (List.drop 16) = s := by
  simp only [chunkSeq, List.flatMap_map, drop_chunkBuf]
  exact flatMap_slice_nchunks hc s

/-- Bytes 5 to 8 of a buffer read the frame's length, where it fits its four bytes (R193, R198). -/
theorem leValue_chunkBuf_frameLength (c : Nat) {s : List Byte} (h : s.length < 2 ^ 32) (k : Nat) :
    leValue (seqSlice (chunkBuf c s k) 5 9) = s.length := by
  have hfield : seqSlice (chunkBuf c s k) 5 9 = le32 (BitVec.ofNat 32 s.length) := rfl
  rw [hfield, leValue_le32, BitVec.toNat_ofNat, Nat.mod_eq_of_lt h]

/-- Bytes 9 to 12 of a buffer read the frame's checksum (R193). -/
theorem leValue_chunkBuf_crc (c : Nat) (s : List Byte) (k : Nat) :
    leValue (seqSlice (chunkBuf c s k) 9 13) = (crc32 s).toNat := by
  have hfield : seqSlice (chunkBuf c s k) 9 13 = le32 (crc32 s) := rfl
  rw [hfield, leValue_le32]

/-- Bytes 0 to 1 of a buffer read its own length, where C plus the header fits two bytes (R193, R198). -/
theorem leValue_chunkBuf_length {c : Nat} (h : c ≤ 65519) (s : List Byte) (k : Nat) :
    leValue (seqSlice (chunkBuf c s k) 0 2) = (chunkBuf c s k).length := by
  have hfield : seqSlice (chunkBuf c s k) 0 2 = le16 (BitVec.ofNat 16 ((slice c s k).length + 16)) := rfl
  have hfits : (slice c s k).length + 16 < 2 ^ 16 := by
    have := length_slice_le c s k
    omega
  rw [hfield, leValue_le16, BitVec.toNat_ofNat, Nat.mod_eq_of_lt hfits, length_chunkBuf]

/-- Settles O27: the frame by `flatMap_drop_chunkSeq`, the three fields buffer by buffer; the bounds of R198 are checks of
`Config.WellFormed`, which `Config.hw` passes. -/
theorem reconstructionLaw : Obligations.ReconstructionLaw := by
  refine ⟨fun c hc hle s hs => ⟨flatMap_drop_chunkSeq hc s, fun buf hbuf => ?_⟩,
    ⟨hw_wellFormed.chunkSize_pos, hw_wellFormed.chunkSize_le, hw_wellFormed.fbSize_lt⟩,
    fun cfg hout hwf => hout ⟨hwf.chunkSize_pos, hwf.chunkSize_le, hwf.fbSize_lt⟩⟩
  obtain ⟨k, -, rfl⟩ := List.mem_map.1 hbuf
  exact ⟨leValue_chunkBuf_frameLength c hs k, leValue_chunkBuf_crc c s k, leValue_chunkBuf_length hle s k⟩

end Sys2Proof.Machine
end

section
/-! The command CHUNK in its `EXEC` step (44_chunk_splitter.md R196, R197). -/

namespace Sys2Proof.Machine

/-- With a `FLEN` that `FB` holds CHUNK stores the checksum of the frame and starts the emission. -/
theorem chunkBody_of_le {s : State} (h : s.flen.toNat ≤ 5114) :
    chunkBody s = emitStart (tick { s with crc := crc32 (frameOperand s) }) := by
  rw [chunkBody, checkFlen_ok_iff.2 ⟨rfl, h⟩]

/-- With a larger `FLEN` CHUNK raises FrameRange(FLEN) before anything is emitted. -/
theorem chunkBody_of_lt {s : State} (h : 5114 < s.flen.toNat) : chunkBody s = raise (.frameRange s.flen) s := by
  rw [chunkBody, checkFlen_error_iff.2 ⟨rfl, h⟩]

/-- In `EXEC` the meaning of CHUNK is its computation (R222). -/
theorem exec_chunk_of_exec {s : State} (h : s.phase = .exec) : exec .chunk s = .next (chunkBody s) := by
  rw [exec, execChunk, runCommand_exec h]

/-- Settles O12: the two ends of `CHECKFLEN` are `chunkBody_of_le` and `chunkBody_of_lt`. -/
theorem chunkResult : Obligations.ChunkResult := by
  intro s hexec
  rw [exec_chunk_of_exec hexec]
  refine ⟨fun hle => ?_, fun hlt => ?_⟩
  · rw [chunkBody_of_le hle]
    rfl
  · rw [chunkBody_of_lt hlt]
    rfl

end Sys2Proof.Machine
end

section
/-! The transport stream (44_chunk_splitter.md R200 to R204): an accepted byte and the two answers. -/

namespace Sys2Proof.Machine

/-- The step in which the transport's move comes next is that move. -/
theorem stepOn_transport (rdy vld ok : Bool) (s : State) :
    stepOn (.transport rdy vld ok) s = .next (transportStep rdy vld ok s) := rfl

/-! ## What a move of the transport is, by phase (R200) -/

theorem transportStep_accept {s : State} (h : s.phase = .emit) (vld ok : Bool) :
    transportStep true vld ok s = beat s := by
  simp [transportStep, h]

theorem transportStep_ok {s : State} (h : s.phase = .resp) (rdy : Bool) :
    transportStep rdy true true s = answerOk s := by
  simp [transportStep, h]

theorem transportStep_fail {s : State} (h : s.phase = .resp) (rdy : Bool) :
    transportStep rdy true false s = answerFail s := by
  simp [transportStep, h]

/-! ## An accepted byte (R201, R202) -/

theorem beat_of_lt {s : State} (h : s.pos + 1 < bufLenAt s s.k) :
    beat s = tick { s with received := s.received ++ [⟨txData s, false⟩], pos := s.pos + 1 } :=
  if_pos h

theorem beat_of_eq {s : State} (h : s.pos + 1 = bufLenAt s s.k) :
    beat s = tick { s with received := s.received ++ [⟨txData s, true⟩], phase := .resp } := by
  rw [beat, if_neg h.not_lt, if_pos h]

/-- Settles O30: the accepted byte is a `beat`, by `beat_of_lt` before the buffer's final byte and `beat_of_eq` on it. -/
theorem acceptedBeat : Obligations.AcceptedBeat := by
  intro s vld ok hemit
  rw [stepOn_transport, transportStep_accept hemit]
  refine ⟨fun hlt => ?_, fun heq => ?_⟩
  · rw [beat_of_lt hlt]
    rfl
  · rw [beat_of_eq heq]
    rfl

/-! ## The answers (R203, R204) -/

/-- The answer `OK` with a buffer left: the next one is sent. -/
theorem answerOk_of_lt {s : State} (h : s.k + 1 < nchunks 4096 s.flen.toNat) :
    answerOk s = { s with nchunk := s.nchunk + 1, k := s.k + 1, pos := 0, phase := .emit } :=
  if_pos h

/-- The answer `OK` to the last buffer: the command ends well. -/
theorem answerOk_of_le {s : State} (h : nchunks 4096 s.flen.toNat ≤ s.k + 1) :
    answerOk s = goodEnd { s with nchunk := s.nchunk + 1 } :=
  if_neg h.not_gt

/-- Settles O31: `answerOk_of_lt` where a buffer is left, `answerOk_of_le` after the last. -/
theorem answerOkResult : Obligations.AnswerOkResult := by
  intro s rdy hresp
  rw [stepOn_transport, transportStep_ok hresp]
  refine ⟨fun hlt => ?_, fun hle => ?_⟩
  · rw [answerOk_of_lt hlt]
  · rw [answerOk_of_le hle]
    rfl

/-- Settles O32: the answer `FAIL` is `answerFail`, the entry of TransportError(K), which writes nothing else. -/
theorem answerFailResult : Obligations.AnswerFailResult := by
  intro s rdy hresp
  rw [stepOn_transport, transportStep_fail hresp]
  rfl

end Sys2Proof.Machine
end

section
/-! The command ENCODE in its `EXEC` step (45_host_commands.md R229; 44_chunk_splitter.md R197). -/

namespace Sys2Proof.Machine

/-- Within the capacity ENCODE stores the composed frame and its checksum and starts the emission; `FLEN` is not tested. -/
theorem encodeBody_of_le {s : State} (h : max s.len1.toNat s.len2.toNat ≤ 255) :
    encodeBody s = emitStart (tick
      { storeFrame (composeFrame (max s.len1.toNat s.len2.toNat) s) s with
        crc := crc32 (composeFrame (max s.len1.toNat s.len2.toNat) s) }) := by
  rw [encodeBody, colCount_ok_iff.2 ⟨rfl, h⟩]

/-- Beyond the capacity ENCODE raises CapacityExceeded(N) before anything is written. -/
theorem encodeBody_of_lt {s : State} (h : 255 < max s.len1.toNat s.len2.toNat) :
    encodeBody s = raise (.capacityExceeded (max s.len1.toNat s.len2.toNat)) s := by
  rw [encodeBody, colCount_error_iff.2 ⟨rfl, h⟩]

/-- In `EXEC` the meaning of ENCODE is its computation (R222). -/
theorem exec_encode_of_exec {s : State} (h : s.phase = .exec) : exec .encode s = .next (encodeBody s) := by
  rw [exec, execEncode, runCommand_exec h]

/-- Settles O13: the two ends of the capacity check are `encodeBody_of_le` and `encodeBody_of_lt`; what is stored is
`BUILDFRAME` of the operands, and `FB` reads back as it below its length, as before from there on. -/
theorem encodeResult : Obligations.EncodeResult := by
  intro s hexec
  rw [exec_encode_of_exec hexec]
  refine ⟨fun hle => ?_, fun hlt => ?_⟩
  · rw [encodeBody_of_le hle]
    exact ⟨composeFrame _ s, _, buildFrame_operands (colCount_ok_iff.2 ⟨rfl, hle⟩), rfl,
      fun _ hj => read_storeFrame_of_lt hj s, fun _ hj => read_storeFrame_of_le hj s⟩
  · rw [encodeBody_of_lt hlt]
    rfl

end Sys2Proof.Machine
end

section
/-! The command port (45_host_commands.md R220, R221, R227, R228, R230): what a write to `CMD` does, by `BUSY` and by its
word. -/

namespace Sys2Proof.Machine

/-! ## A write to `CMD` -/

/-- R220: taken while `BUSY` = 0, a word that decodes to a command is the meaning of that command. -/
theorem stepOn_commandWrite_ok {s : State} {v : Word} {i : Instr} (hb : s.status.busy = false) (h : decode v = .ok i) :
    stepOn (.hostWrite 32 0x00 v) s = exec i s := by
  rw [stepOn_hostWrite_cmd hb, commandWrite, h]

/-- R230: taken while `BUSY` = 0, a word that decodes to no command raises IllegalCommand(v). -/
theorem stepOn_commandWrite_error {s : State} {v : Word} {e : DecodeError} (hb : s.status.busy = false)
    (h : decode v = .error e) : stepOn (.hostWrite 32 0x00 v) s = .next (raise (.illegalCommand v) s) := by
  rw [stepOn_hostWrite_cmd hb, commandWrite, h]

/-- R61, R67: a 32-bit access at `CMD`'s offset 0 has a meaning. -/
theorem accessLegal_cmd : AccessLegal 32 0x00 := ⟨rfl, rfl, rfl⟩

/-- R65: while `BUSY` = 1 a command word is dropped, whatever it is. -/
theorem stepOn_commandWrite_busy {s : State} (hb : s.status.busy = true) (v : Word) :
    stepOn (.hostWrite 32 0x00 v) s = .next (dropWrite s) :=
  hostWrite_busy hb accessLegal_cmd v

/-! ## Acceptance and its refusal (R221, R230) -/

/-- Settles O6: in `IDLE` the meaning of the four commands is `accept`, and the `CMD` write is that meaning. -/
theorem acceptanceStartsTheCommand : Obligations.AcceptanceStartsTheCommand := by
  intro op s v hidle t
  have haccept : exec op.instr s = .next t := exec_idle op hidle
  exact ⟨haccept, fun hb hv => (stepOn_commandWrite_ok hb hv).trans haccept⟩

/-- With `BUSY` = 0 in `IDLE` the entry of an error leaves `BUSY` and `PHASE` at the values they have (R256, R230). -/
theorem raise_of_idle {s : State} (hb : s.status.busy = false) (hidle : s.phase = .idle) (e : CmdError) :
    raise e s = { s with
      status := { s.status with done := false, err := true, errCode := e.code }
      errInfo := e.info } := by
  simp [raise, Status.raised, hb, hidle]

/-- Settles O7: the write raises IllegalCommand(v), whose code is 3 and whose info is v, and `raise` moves neither `BUSY`
nor `PHASE` here. -/
theorem illegalCommandIsRaised : Obligations.IllegalCommandIsRaised := by
  intro s v e hb hidle hv
  rw [stepOn_commandWrite_error hb hv, raise_of_idle hb hidle]
  rfl

/-! ## NOP and CLEAR (R227, R228) -/

/-- R227: NOP does nothing, in every phase. -/
theorem exec_nop (s : State) : exec .nop s = .next s := rfl

/-- R228: CLEAR is `clearStatus`, in every phase. -/
theorem exec_clear (s : State) : exec .clear s = .next (clearStatus s) := rfl

theorem decode_nop_word : decode 0x00000000 = .ok .nop := by decide

theorem decode_clear_word : decode 0x00000005 = .ok .clear := by decide

/-- Settles O8: NOP by `exec_nop`, its word by the command port, dropped where the block is busy. -/
theorem nopChangesNothing : Obligations.NopChangesNothing := fun s =>
  ⟨exec_nop s, fun hb => (stepOn_commandWrite_ok hb decode_nop_word).trans (exec_nop s),
    fun hb => stepOn_commandWrite_busy hb _⟩

/-- Settles O9: CLEAR by `exec_clear`, its word by the command port, dropped where the block is busy. -/
theorem clearResult : Obligations.ClearResult := fun s =>
  ⟨exec_clear s, fun hb => (stepOn_commandWrite_ok hb decode_clear_word).trans (exec_clear s),
    fun hb => stepOn_commandWrite_busy hb _⟩

end Sys2Proof.Machine
end

section
/-! The command word (30_encoding.md R90 to R93): a word is its two fields, and the table holds each command under its own
code and no other. -/

namespace Sys2Proof

/-- R90: a word is `ZERO` above `OPC`. -/
theorem zeroField_append_opcField (v : Word) : zeroField v ++ opcField v = v :=
  BitVec.extractLsb'_append_extractLsb'

@[simp] theorem zeroField_encode (i : Instr) : zeroField (encode i) = 0 := BitVec.extractLsb'_append_eq_left

@[simp] theorem opcField_encode (i : Instr) : opcField (encode i) = i.opc := BitVec.extractLsb'_append_eq_right

/-- R90, R92: a word is a command's exactly when `ZERO` is 0 and `OPC` is the command's code. -/
theorem eq_encode_iff {v : Word} {i : Instr} : v = encode i ↔ zeroField v = 0 ∧ opcField v = i.opc := by
  constructor
  · rintro rfl
    exact ⟨zeroField_encode i, opcField_encode i⟩
  · rintro ⟨hz, ho⟩
    rw [← zeroField_append_opcField v, hz, ho, encode]

/-- Every row of the table has its command's code (R92). -/
theorem eq_opc_of_mem_opcTable {b : BitVec 8} {i : Instr} (h : (b, i) ∈ opcTable) : b = i.opc := by
  have hrows : ∀ p ∈ opcTable, p.1 = p.2.opc := by decide
  exact hrows _ h

/-- R92: the table gives a command for its own code and for no other. -/
theorem lookup_opcTable_eq_some_iff {b : BitVec 8} {i : Instr} : opcTable.lookup b = some i ↔ b = i.opc := by
  constructor
  · intro h
    obtain ⟨before, after, hsplit, -⟩ := List.lookup_eq_some_iff.1 h
    exact eq_opc_of_mem_opcTable (hsplit ▸ List.mem_append_right before List.mem_cons_self)
  · rintro rfl
    cases i <;> rfl

/-- R93: the codes the table does not hold are those from 0x06 on. -/
theorem lookup_opcTable_eq_none_iff {b : BitVec 8} : opcTable.lookup b = none ↔ 0x06#8 ≤ b := by
  rw [List.lookup_eq_none_iff]
  simp only [opcTable, List.forall_mem_cons, bne_iff_ne, List.not_mem_nil, false_implies, implies_true, and_true]
  constructor
  · rintro ⟨h0, h1, h2, h3, h4, h5⟩
    bv_omega
  · intro h
    refine ⟨?_, ?_, ?_, ?_, ?_, ?_⟩ <;> bv_omega

/-- R92: what `decode` accepts, by the two fields. -/
theorem decode_eq_ok_iff {v : Word} {i : Instr} : decode v = .ok i ↔ zeroField v = 0 ∧ opcField v = i.opc := by
  rw [← lookup_opcTable_eq_some_iff]
  unfold decode
  split_ifs with hz
  · simp [show zeroField v ≠ 0#24 from hz]
  · cases hl : opcTable.lookup (opcField v) <;> simp [not_not.1 hz]

/-- R93: what `decode` rejects, by the two fields. -/
theorem decode_eq_error_iff {v : Word} :
    (∃ e, decode v = .error e) ↔ zeroField v ≠ 0 ∨ (zeroField v = 0 ∧ 0x06#8 ≤ opcField v) := by
  rw [← lookup_opcTable_eq_none_iff]
  unfold decode
  split_ifs with hz
  · simp [show zeroField v ≠ 0#24 from hz]
  · cases hl : opcTable.lookup (opcField v) <;> simp [not_not.1 hz]

/-- Settles O2: to decode to a command and to be its word are both to have `ZERO` 0 and the command's code. -/
theorem decodeExactlyTheEncodings : Obligations.DecodeExactlyTheEncodings := fun _ _ =>
  decode_eq_ok_iff.trans eq_encode_iff.symm

/-- Settles O3: the two reasons for which `decode` rejects are the two classes of the rule. -/
theorem illegalWordsAreRejected : Obligations.IllegalWordsAreRejected := fun _ => decode_eq_error_iff

/-- Settles O1: each word of the table is the encoding of its command. -/
theorem tableWordsDecode : Obligations.TableWordsDecode := by
  have hword (i : Instr) : decode (encode i) = .ok i := decode_eq_ok_iff.2 (eq_encode_iff.1 rfl)
  exact ⟨hword .nop, hword .build, hword .crc, hword .chunk, hword .encode, hword .clear⟩

end Sys2Proof
end


section
/-! The fields of the register words (10_state.md R24 to R27; 20_memory.md R63). -/

namespace Sys2Proof.Machine

/-! ## Four bytes in a word -/

/-- Above its last part a concatenation has the fields of the rest. -/
theorem extractLsb'_append_add {n w : Nat} (a : BitVec n) (d : BitVec w) (start len : Nat) :
    (a ++ d).extractLsb' (start + w) len = a.extractLsb' start len := by
  rw [BitVec.extractLsb'_append_eq_of_le (Nat.le_add_left w start), Nat.add_sub_cancel]

theorem extractLsb'_bytes_0 (a b c d : Byte) : (a ++ b ++ c ++ d).extractLsb' 0 8 = d :=
  BitVec.extractLsb'_append_eq_right

theorem extractLsb'_bytes_8 (a b c d : Byte) : (a ++ b ++ c ++ d).extractLsb' 8 8 = c :=
  (extractLsb'_append_add _ d 0 8).trans BitVec.extractLsb'_append_eq_right

theorem extractLsb'_bytes_16 (a b c d : Byte) : (a ++ b ++ c ++ d).extractLsb' 16 8 = b :=
  (extractLsb'_append_add _ d 8 8).trans ((extractLsb'_append_add _ c 0 8).trans BitVec.extractLsb'_append_eq_right)

theorem extractLsb'_bytes_24 (a b c d : Byte) : (a ++ b ++ c ++ d).extractLsb' 24 8 = a :=
  (extractLsb'_append_add _ d 16 8).trans ((extractLsb'_append_add _ c 8 8).trans BitVec.extractLsb'_append_eq_left)

/-- The four bytes of a word together are the word. -/
theorem append_bytes (v : Word) :
    v.extractLsb' 24 8 ++ v.extractLsb' 16 8 ++ v.extractLsb' 8 8 ++ v.extractLsb' 0 8 = v := by
  have h : v.extractLsb' 24 8 ++ v.extractLsb' 16 8 ++ v.extractLsb' 8 8 = v.extractLsb' 8 24 := by
    have h' : v.extractLsb' 24 8 ++ v.extractLsb' 16 8 = v.extractLsb' 16 16 :=
      BitVec.extractLsb'_append_extractLsb'_eq_extractLsb' rfl
    rw [h']
    exact BitVec.extractLsb'_append_extractLsb'_eq_extractLsb' rfl
  rw [h]
  exact BitVec.extractLsb'_append_extractLsb'

/-! ## The registers -/

/-- R24: the fields of `CFG0` stand in its word at the places a write takes them from. -/
theorem cfg0OfWord_cfg0Word (c : Cfg0) : cfg0OfWord (cfg0Word c) = c := by
  obtain ⟨m, sp, cm, bm⟩ := c
  exact congr (congr (congrArg₂ Cfg0.mk (extractLsb'_bytes_0 bm cm sp m) (extractLsb'_bytes_8 bm cm sp m))
    (extractLsb'_bytes_16 bm cm sp m)) (extractLsb'_bytes_24 bm cm sp m)

/-- R25, R26: the fields of a colour stand in its word at the places a write takes them from. -/
theorem rgbOfWord_rgbWord (c : Rgb) : rgbOfWord (rgbWord c) = c := by
  obtain ⟨r, g, b⟩ := c
  exact congr (congrArg₂ Rgb.mk (extractLsb'_bytes_0 0 b g r) (extractLsb'_bytes_8 0 b g r)) (extractLsb'_bytes_16 0 b g r)

/-- R25, R26: bits 31:24 of a colour register read as 0. -/
theorem rgbWord_high (c : Rgb) : (rgbWord c).extractLsb' 24 8 = 0 := extractLsb'_bytes_24 0 c.b c.g c.r

/-- R63: a word written to `CFG0` is read back whole. -/
theorem cfg0Word_cfg0OfWord (v : Word) : cfg0Word (cfg0OfWord v) = v := append_bytes v

/-- R63: a word written to a colour register is read back with bits 31:24 cleared. -/
theorem rgbWord_rgbOfWord (v : Word) : rgbWord (rgbOfWord v) = v &&& 0x00FFFFFF#32 := by
  have hmask : (0x00FFFFFF#32).extractLsb' 24 8 = 0#8 ∧ (0x00FFFFFF#32).extractLsb' 16 8 = .allOnes 8 ∧
      (0x00FFFFFF#32).extractLsb' 8 8 = .allOnes 8 ∧ (0x00FFFFFF#32).extractLsb' 0 8 = .allOnes 8 := by decide
  obtain ⟨h24, h16, h8, h0⟩ := hmask
  rw [← append_bytes (v &&& 0x00FFFFFF#32)]
  simp only [BitVec.extractLsb'_and, h24, h16, h8, h0, BitVec.and_allOnes, BitVec.and_zero, rgbWord, rgbOfWord,
    BitVec.ofNat_eq_ofNat]

/-- Above its last bit a concatenation has the bits of the rest. -/
theorem getLsbD_append_ofBool_succ {n : Nat} (a : BitVec n) (b : Bool) (i : Nat) :
    (a ++ BitVec.ofBool b).getLsbD (i + 1) = a.getLsbD i := by
  simp [BitVec.getLsbD_append]

theorem getLsbD_append_ofBool_zero {n : Nat} (a : BitVec n) (b : Bool) : (a ++ BitVec.ofBool b).getLsbD 0 = b := by
  rw [BitVec.getLsbD_append]
  simp

/-- R27: the flags of `STATUS` at bits 0 to 3. -/
theorem getLsbD_statusWord (st : Status) :
    (statusWord st).getLsbD 0 = st.busy ∧ (statusWord st).getLsbD 1 = st.done ∧
    (statusWord st).getLsbD 2 = st.err ∧ (statusWord st).getLsbD 3 = st.werr :=
  ⟨getLsbD_append_ofBool_zero _ st.busy,
    (getLsbD_append_ofBool_succ _ st.busy 0).trans (getLsbD_append_ofBool_zero _ st.done),
    (getLsbD_append_ofBool_succ _ st.busy 1).trans <| (getLsbD_append_ofBool_succ _ st.done 0).trans
      (getLsbD_append_ofBool_zero _ st.err),
    (getLsbD_append_ofBool_succ _ st.busy 2).trans <| (getLsbD_append_ofBool_succ _ st.done 1).trans <|
      (getLsbD_append_ofBool_succ _ st.err 0).trans (getLsbD_append_ofBool_zero _ st.werr)⟩

/-- R27: `ERRCODE` at bits 7:4. -/
theorem statusWord_errCode (st : Status) : (statusWord st).extractLsb' 4 4 = st.errCode :=
  (extractLsb'_append_add _ (.ofBool st.busy) 3 4).trans <| (extractLsb'_append_add _ (.ofBool st.done) 2 4).trans <|
    (extractLsb'_append_add _ (.ofBool st.err) 1 4).trans <| (extractLsb'_append_add _ (.ofBool st.werr) 0 4).trans
      BitVec.extractLsb'_append_eq_right

/-- R27: bits 31:8 of `STATUS` read as 0. -/
theorem statusWord_high (st : Status) : (statusWord st).extractLsb' 8 24 = 0 :=
  (extractLsb'_append_add _ (.ofBool st.busy) 7 24).trans <| (extractLsb'_append_add _ (.ofBool st.done) 6 24).trans <|
    (extractLsb'_append_add _ (.ofBool st.err) 5 24).trans <| (extractLsb'_append_add _ (.ofBool st.werr) 4 24).trans
      BitVec.extractLsb'_append_eq_left

/-- Settles O46: the fields of each word by their places; the fields of `CFG0` and the colours are those a write of the word
gives. -/
theorem registerFields : Obligations.RegisterFields := by
  refine ⟨fun st => ?_, fun c => ?_, fun c => ?_, fun v => ⟨cfg0Word_cfg0OfWord v, rgbWord_rgbOfWord v⟩,
    cfg0OfWord_cfg0Word, rgbOfWord_rgbWord⟩
  · obtain ⟨hbusy, hdone, herr, hwerr⟩ := getLsbD_statusWord st
    exact ⟨hbusy, hdone, herr, hwerr, statusWord_errCode st, statusWord_high st⟩
  · have h := cfg0OfWord_cfg0Word c
    exact ⟨congrArg Cfg0.mode h, congrArg Cfg0.speed h, congrArg Cfg0.colorMode h, congrArg Cfg0.bgMode h⟩
  · have h := rgbOfWord_rgbWord c
    exact ⟨congrArg Rgb.r h, congrArg Rgb.g h, congrArg Rgb.b h, rgbWord_high c⟩

end Sys2Proof.Machine
end

section
/-! The capacity check (42_frame_assembler.md R150), the check values of the checksum (43_checksum.md R170, R177), and the
chunk sequence: its sizes (44_chunk_splitter.md R192, R194) and the constants of its headers (R98, R188). -/

namespace Sys2Proof.Machine

/-- `BUILDFRAME` fails exactly where its capacity check does (R154). -/
theorem buildFrame_eq_error_iff {cfg : Config} {c : Cfg0} {fg bg : Rgb} {line1 line2 : List cfg.Code} {e : CmdError} :
    buildFrame cfg c fg bg line1 line2 = .error e ↔ colCount line1.length line2.length = .error e := by
  unfold buildFrame
  split <;> rename_i h <;> simp [h]

/-- Settles O18: `BUILDFRAME` fails as its capacity check does, which is `colCount_error_iff`. -/
theorem capacityCheckIsExact : Obligations.CapacityCheckIsExact := fun _ _ _ _ _ _ _ =>
  buildFrame_eq_error_iff.trans (colCount_error_iff.trans and_comm)

@[simp] theorem crc32_nil : crc32 [] = 0 := by decide

/-- Settles O22: the three values, by evaluation of the shift register. -/
theorem crcCheckValues : Obligations.CrcCheckValues := ⟨crc32_nil, by decide +kernel, by decide⟩

/-- Settles O26: every header is `headerBytes`, whose constant bytes do not depend on its fields; offset 4 is `cont`. -/
theorem headerConstants : Obligations.HeaderConstants := fun _ _ _ =>
  ⟨rfl, getElem?_headerBytes_four _ _ _ _, rfl⟩

/-! ## The sizes of the sequence (R192, R194) -/

@[simp] theorem length_chunkSeq (c : Nat) (s : List Byte) : (chunkSeq c s).length = nchunks c s.length := by
  simp [chunkSeq]

/-- All buffers together are the frame and a header for each (R192). -/
theorem length_flatten_chunkSeq {c : Nat} (hc : 1 ≤ c) (s : List Byte) :
    (chunkSeq c s).flatten.length = s.length + 16 * nchunks c s.length := by
  have hslices : ((List.range (nchunks c s.length)).map fun k => (slice c s k).length).sum = s.length := by
    rw [← List.length_flatMap, flatMap_slice_nchunks hc]
  simp only [chunkSeq, List.length_flatten, List.map_map, Function.comp_def, length_chunkBuf, List.sum_map_add, hslices]
  simp [Nat.mul_comm]

/-- R194: the empty frame makes one buffer, a header alone. -/
theorem chunkSeq_nil (c : Nat) : chunkSeq c [] = [headerBytes 0 0 0 0] := by
  have hslice : slice c [] 0 = [] := by simp [slice, seqSlice]
  simp [chunkSeq, chunkBuf, chunkHdr, hslice]

/-- Settles O28: each buffer is 16 bytes longer than its slice, which has at most C bytes; the empty frame by
`chunkSeq_nil`. -/
theorem chunkSequenceSizes : Obligations.ChunkSequenceSizes := by
  intro c hc s
  refine ⟨length_chunkSeq c s, (length_chunkSeq c s).symm ▸ nchunks_pos hc _, fun buf hbuf => ?_,
    length_flatten_chunkSeq hc s, chunkSeq_nil c⟩
  obtain ⟨k, -, rfl⟩ := List.mem_map.1 hbuf
  have := length_slice_le c s k
  rw [length_chunkBuf]
  omega

end Sys2Proof.Machine
end

section
/-! The address map (20_memory.md R61), the accesses it refuses (R67), and the moves that answer a next state. -/

namespace Sys2Proof.Machine

/-! ## The map (R61) -/

/-- A register is mapped at its own offset. -/
theorem offset_of_registerAt {off : Nat} {tgt : Target} (h : registerAt off = some tgt) : tgt.offset = off := by
  unfold registerAt at h
  split at h <;> cases h <;> rfl

/-- What the map gives at a multiple of 4 has that offset: a buffer's cells lie 4 apart. -/
theorem offset_of_targetAt {off : Nat} {tgt : Target} (h4 : off % 4 = 0) (h : targetAt off = some tgt) :
    tgt.offset = off := by
  unfold targetAt at h
  split_ifs at h
  · exact offset_of_registerAt h
  all_goals
    cases h
    simp only [Target.offset]
    omega

/-- A register or cell that exists is mapped at its offset. -/
theorem targetAt_offset {tgt : Target} (h : tgt.exists? = true) : targetAt tgt.offset = some tgt := by
  cases tgt with
  | line1 i => exact targetAt_line1 (of_decide_eq_true h)
  | line2 i => exact targetAt_line2 (of_decide_eq_true h)
  | fb j => exact targetAt_fb (by simpa [Target.exists?] using h)
  | _ => rfl

/-- Settles O39: what is mapped exists, by `targetAt_exists`, and stands at its offset; what exists is mapped there. -/
theorem addressMapIsExact : Obligations.AddressMapIsExact := by
  intro off tgt h4
  constructor
  · exact fun h => ⟨targetAt_exists h, offset_of_targetAt h4 h⟩
  · rintro ⟨hexists, rfl⟩
    exact targetAt_offset hexists

/-! ## Accesses without a meaning (R67) -/

theorem hostAccess_of_width {width : Nat} (h : width ≠ 32) (off : Nat) (act : Target → Result) :
    hostAccess width off act = .refused (.accessWidth width) := if_pos h

theorem hostAccess_of_misaligned {off : Nat} (h : off % 4 ≠ 0) (act : Target → Result) :
    hostAccess 32 off act = .refused (.misalignedOffset off) := by
  simp [hostAccess, h]

theorem hostAccess_of_unmapped {off : Nat} (h4 : off % 4 = 0) (h : targetAt off = none) (act : Target → Result) :
    hostAccess 32 off act = .refused (.unmappedOffset off) := by
  simp [hostAccess, h4, h]

/-- Settles O44: a read and a write are both a `hostAccess`, which refuses before it acts. -/
theorem meaninglessAccessStops : Obligations.MeaninglessAccessStops := fun _ _ off _ =>
  ⟨fun h => ⟨hostAccess_of_width h off _, hostAccess_of_width h off _⟩,
    fun h => ⟨hostAccess_of_misaligned h _, hostAccess_of_misaligned h _⟩,
    fun h4 h => ⟨hostAccess_of_unmapped h4 h _, hostAccess_of_unmapped h4 h _⟩⟩

/-! ## The moves that answer a next state (R67, R255) -/

/-- An access whose effect on every target answers a next state answers one exactly when R67 gives it a meaning. -/
theorem hostAccess_answers_iff {width off : Nat} {act : Target → Result} (hact : ∀ tgt, ∃ t, act tgt = .next t) :
    (∃ t, hostAccess width off act = .next t) ↔ AccessLegal width off := by
  constructor
  · rintro ⟨t, h⟩
    obtain ⟨hw, h4, tgt, htgt, -⟩ := hostAccess_next h
    exact ⟨hw, h4, htgt ▸ rfl⟩
  · intro h
    obtain ⟨tgt, -, heq⟩ := hostAccess_legal (act := act) h
    exact heq ▸ hact tgt

/-- The command port always answers: by the command, or by the error IllegalCommand (R220, R230). -/
theorem commandWrite_answers (v : Word) (s : State) : ∃ t, commandWrite v s = .next t := by
  unfold commandWrite
  split
  · exact exec_next _ s
  · exact ⟨_, rfl⟩

theorem hostWrite_answers_iff {width off : Nat} {v : Word} {s : State} :
    (∃ t, hostWrite width off v s = .next t) ↔ AccessLegal width off := by
  refine hostAccess_answers_iff fun tgt => ?_
  split_ifs
  · exact ⟨_, rfl⟩
  · exact commandWrite_answers v s
  · exact ⟨_, rfl⟩

theorem sequencerStep_answers (s : State) : ∃ t, sequencerStep s = .next t := by
  obtain ⟨-, h⟩ | ⟨-, h⟩ | ⟨-, h⟩ := sequencerStep_cases s <;> exact ⟨_, h⟩

/-- A move answers a next state exactly when it is no access outside the map. -/
theorem eventStep_answers_iff (e : Event) (s : State) : (∃ t, eventStep e s = .next t) ↔ MoveLegal e := by
  cases e with
  | hostRead width off => exact hostAccess_answers_iff fun _ => ⟨_, rfl⟩
  | hostWrite width off v => exact hostWrite_answers_iff
  | sequencer => exact iff_of_true (sequencerStep_answers s) trivial
  | transport rdy vld ok => exact iff_of_true ⟨_, rfl⟩ trivial
  | reset => exact iff_of_true ⟨_, rfl⟩ trivial

/-- Settles O45: on an empty agenda the sequencer moves and always answers; else the next move decides, by
`eventStep_answers_iff`. -/
theorem onlyMeaninglessAccessStops : Obligations.OnlyMeaninglessAccessStops := by
  intro s
  cases ha : s.agenda with
  | nil =>
    rw [step_nil ha]
    exact iff_of_true (sequencerStep_answers s) nofun
  | cons e rest =>
    rw [step_cons ha, eventStep_answers_iff]
    simp

end Sys2Proof.Machine
end

section
/-! One step of the block (20_memory.md R73): whose move it is and, once for all claims, what that move can do. -/

namespace Sys2Proof.Machine

/-! ## The next move -/

/-- The move a step makes: the first of the agenda, the sequencer's where there is none (log entry 4). -/
def nextEvent (s : State) : Event := s.agenda.head?.getD .sequencer

/-- The state in which that move is made: it has been taken from the agenda. -/
def takeMove (s : State) : State := { s with agenda := s.agenda.tail }

/-- A step is the next move, made in the state from which it has been taken. -/
theorem step_eq (s : State) : step s = eventStep (nextEvent s) (takeMove s) := by
  cases ha : s.agenda with
  | nil =>
    rw [step_nil ha, nextEvent, takeMove, ha, List.head?_nil, List.tail_nil, ← ha]
    rfl
  | cons e rest =>
    rw [step_cons ha, nextEvent, takeMove, ha]
    rfl

/-- A move of the environment stands at the head of the agenda. -/
theorem head?_of_nextEvent {s : State} {e : Event} (h : nextEvent s = e) (hne : e ≠ .sequencer) :
    s.agenda.head? = some e := by
  unfold nextEvent at h
  cases ha : s.agenda.head? <;> simp_all

/-- The sequencer moves when its turn comes next and on an empty agenda (log entry 4). -/
theorem agenda_of_nextEvent_sequencer {s : State} (h : nextEvent s = .sequencer) :
    s.agenda = [] ∨ s.agenda.head? = some .sequencer := by
  unfold nextEvent at h
  cases ha : s.agenda <;> simp_all

/-- Settles O4: the step is the move of the `CMD` write, by `stepOn_commandWrite_ok`. -/
theorem stepRunsTheDecodedCommand : Obligations.StepRunsTheDecodedCommand := by
  intro s rest v i ha hb hv
  rw [step_cons ha]
  exact stepOn_commandWrite_ok (s := { s with agenda := rest }) hb hv

/-- In `EXEC` the sequencer's turn is the meaning of the accepted command (R222). -/
theorem sequencerStep_of_exec {s : State} (h : s.phase = .exec) : sequencerStep s = exec s.op.instr s := by
  simp [sequencerStep, h]

/-- Settles O5: the sequencer's turn in `EXEC`, when it comes next and when the agenda is empty. -/
theorem stepRunsTheAcceptedCommand : Obligations.StepRunsTheAcceptedCommand := fun _ hexec =>
  ⟨sequencerStep_of_exec hexec, fun ha => (step_nil ha).trans (sequencerStep_of_exec hexec)⟩

/-- The sequencer waits while the block sends (log entry 15). -/
theorem sequencerStep_of_sending {s : State} (h : Sending s) : sequencerStep s = .next s := by
  rw [← exec_op_sending h]
  obtain h | h := h <;> simp [sequencerStep, h]

/-- Settles O33: the waiting arms of `transportStep`, phase by phase, and the sequencer's turn by
`sequencerStep_of_sending`. -/
theorem streamWaits : Obligations.StreamWaits := by
  intro s rdy vld ok
  refine ⟨fun hemit => ?_, fun hresp => ?_, fun hidle => ?_, fun hsend => ?_⟩
  · simp [stepOn_transport, transportStep, hemit]
  · simp [stepOn_transport, transportStep, hresp]
  · obtain h | h := hidle <;> simp [stepOn_transport, transportStep, h]
  · have hwait := sequencerStep_of_sending hsend
    exact ⟨hwait, fun ha => (step_nil ha).trans hwait⟩

/-- Settles O48: the reset event is `resetBlock`, whatever the state. -/
theorem resetFromAnyState : Obligations.ResetFromAnyState := fun _ => rfl

/-! ## What the `EXEC` step can do (R222, R223) -/

/-- The computation of an accepted command, by its outcome: an error before anything is written, a good end, or the start
of an emission. -/
inductive ExecOutcome (s : State) : Op → State → Prop
  /-- BUILD or ENCODE beyond the capacity (R150). -/
  | capacity {op : Op} (n : Nat) (hop : op = .build ∨ op = .encode) : ExecOutcome s op (raise (.capacityExceeded n) s)
  /-- CRC or CHUNK with a `FLEN` beyond `FB` (R175). -/
  | range {op : Op} (hop : op = .crc ∨ op = .chunk) : ExecOutcome s op (raise (.frameRange s.flen) s)
  /-- BUILD stores a frame that fits `FB` (R156). -/
  | build (f : List Byte) (hf : f.length ≤ 5114) : ExecOutcome s .build (goodEnd (tick (storeFrame f s)))
  /-- CRC stores the checksum of the frame (R176). -/
  | crc (hlen : s.flen.toNat ≤ 5114) : ExecOutcome s .crc (goodEnd (tick { s with crc := crc32 (frameOperand s) }))
  /-- CHUNK stores the checksum of the frame and starts to send it (R196). -/
  | chunk (hlen : s.flen.toNat ≤ 5114) :
      ExecOutcome s .chunk (emitStart (tick { s with crc := crc32 (frameOperand s) }))
  /-- ENCODE stores a frame that fits `FB` and its checksum and starts to send it (R229). -/
  | encode (f : List Byte) (hf : f.length ≤ 5114) :
      ExecOutcome s .encode (emitStart (tick { storeFrame f s with crc := crc32 f }))

theorem execOutcome_build (s : State) : ExecOutcome s .build (buildBody s) := by
  obtain hlt | hle := Nat.lt_or_ge 255 (max s.len1.toNat s.len2.toNat)
  · exact buildBody_of_lt hlt ▸ .capacity _ (.inl rfl)
  · exact buildBody_of_le hle ▸ .build _ (length_composeFrame_le (colCount_ok_iff.2 ⟨rfl, hle⟩))

theorem execOutcome_crc (s : State) : ExecOutcome s .crc (crcBody s) := by
  obtain hlt | hle := Nat.lt_or_ge 5114 s.flen.toNat
  · exact crcBody_of_lt hlt ▸ .range (.inl rfl)
  · exact crcBody_of_le hle ▸ .crc hle

theorem execOutcome_chunk (s : State) : ExecOutcome s .chunk (chunkBody s) := by
  obtain hlt | hle := Nat.lt_or_ge 5114 s.flen.toNat
  · exact chunkBody_of_lt hlt ▸ .range (.inr rfl)
  · exact chunkBody_of_le hle ▸ .chunk hle

theorem execOutcome_encode (s : State) : ExecOutcome s .encode (encodeBody s) := by
  obtain hlt | hle := Nat.lt_or_ge 255 (max s.len1.toNat s.len2.toNat)
  · exact encodeBody_of_lt hlt ▸ .capacity _ (.inr rfl)
  · exact encodeBody_of_le hle ▸ .encode _ (length_composeFrame_le (colCount_ok_iff.2 ⟨rfl, hle⟩))

/-- `ExecOutcome` says all that a command can do in `EXEC`. -/
theorem execOutcome_of_exec {op : Op} {s t : State} (hexec : s.phase = .exec) (h : exec op.instr s = .next t) :
    ExecOutcome s op t := by
  cases op with
  | build => cases (exec_build_of_exec hexec).symm.trans h; exact execOutcome_build s
  | crc => cases (exec_crc_of_exec hexec).symm.trans h; exact execOutcome_crc s
  | chunk => cases (exec_chunk_of_exec hexec).symm.trans h; exact execOutcome_chunk s
  | encode => cases (exec_encode_of_exec hexec).symm.trans h; exact execOutcome_encode s

/-- What a command can do, in any phase. -/
inductive CommandEffect (s : State) : Instr → State → Prop
  /-- NOP does nothing (R227). -/
  | nop : CommandEffect s .nop s
  /-- CLEAR (R228). -/
  | clear : CommandEffect s .clear (clearStatus s)
  /-- In `IDLE` the other four are accepted (R221). -/
  | accept (op : Op) (hidle : s.phase = .idle) : CommandEffect s op.instr (accept op s)
  /-- In `EXEC` they compute (R222). -/
  | compute {op : Op} {t : State} (hexec : s.phase = .exec) (hout : ExecOutcome s op t) : CommandEffect s op.instr t
  /-- While the block sends they wait (R205). -/
  | wait (op : Op) (hsend : Sending s) : CommandEffect s op.instr s

/-- `CommandEffect` says all that a command can do. -/
theorem commandEffect_of_exec {i : Instr} {s t : State} (h : exec i s = .next t) : CommandEffect s i t := by
  obtain ⟨rfl, rfl⟩ | ⟨rfl, rfl⟩ | ⟨op, rfl, ⟨hidle, rfl⟩ | ⟨hexec, -⟩ | ⟨hsend, rfl⟩⟩ := exec_cases h
  · exact .nop
  · exact .clear
  · exact .accept op hidle
  · exact .compute hexec (execOutcome_of_exec hexec h)
  · exact .wait op hsend

/-! ## What a move can do -/

/-- What a move can do, by the agent that makes it. -/
inductive MoveEffect (s : State) : Event → State → Prop
  /-- A read answers a value and changes nothing of the block (R64, R66). -/
  | read (width off : Nat) (v : Word) : MoveEffect s (.hostRead width off) (tick { s with reads := s.reads ++ [v] })
  /-- A write made while `BUSY` = 1 is dropped (R65). -/
  | dropped (width off : Nat) (v : Word) (hbusy : s.status.busy = true) :
      MoveEffect s (.hostWrite width off v) (dropWrite s)
  /-- A `CMD` write made while `BUSY` = 0 runs the command of its word (R220). -/
  | command {v : Word} {i : Instr} {t : State} (hbusy : s.status.busy = false) (hdec : decode v = .ok i)
      (heff : CommandEffect s i t) : MoveEffect s (.hostWrite 32 0x00 v) t
  /-- An illegal word written while `BUSY` = 0 raises IllegalCommand (R230). -/
  | illegal (v : Word) (hbusy : s.status.busy = false) :
      MoveEffect s (.hostWrite 32 0x00 v) (raise (.illegalCommand v) s)
  /-- A write to another target, made while `BUSY` = 0 (R63). -/
  | write (width off : Nat) (v : Word) {tgt : Target} (hbusy : s.status.busy = false) (htgt : tgt.exists? = true) :
      MoveEffect s (.hostWrite width off v) (writeTarget tgt v s)
  /-- The sequencer has nothing to do: no command runs (R263) or the block sends (R205). -/
  | sequencerWaits : MoveEffect s .sequencer s
  /-- The sequencer's `EXEC` step (R222). -/
  | compute {t : State} (hexec : s.phase = .exec) (hout : ExecOutcome s s.op t) : MoveEffect s .sequencer t
  /-- The transport's move is ignored, or the block waits for it (R205). -/
  | transportWaits (rdy vld ok : Bool) : MoveEffect s (.transport rdy vld ok) s
  /-- The byte on offer is accepted (R201, R202). -/
  | beat (vld ok : Bool) (hemit : s.phase = .emit) : MoveEffect s (.transport true vld ok) (beat s)
  /-- The answer `OK` (R203). -/
  | answerOk (rdy : Bool) (hresp : s.phase = .resp) : MoveEffect s (.transport rdy true true) (answerOk s)
  /-- The answer `FAIL` (R204). -/
  | answerFail (rdy : Bool) (hresp : s.phase = .resp) : MoveEffect s (.transport rdy true false) (answerFail s)
  /-- Reset (R280). -/
  | reset : MoveEffect s .reset (resetBlock s)

theorem moveEffect_of_hostWrite {width off : Nat} {v : Word} {s t : State} (h : hostWrite width off v s = .next t) :
    MoveEffect s (.hostWrite width off v) t := by
  obtain ⟨rfl, -, -⟩ := hostAccess_next h
  obtain ⟨tgt, htgt, ⟨hb, rfl⟩ | ⟨hb, rfl, hcmd⟩ | ⟨hb, -, rfl⟩⟩ := hostWrite_cases h
  · exact .dropped 32 off v hb
  · obtain rfl := eq_zero_of_targetAt_cmd htgt
    obtain ⟨i, hi, hx⟩ | ⟨e, -, rfl⟩ := hcmd
    · exact .command hb hi (commandEffect_of_exec hx)
    · exact .illegal v hb
  · exact .write 32 off v hb (targetAt_exists htgt)

theorem moveEffect_of_sequencerStep {s t : State} (h : sequencerStep s = .next t) : MoveEffect s .sequencer t := by
  obtain ⟨-, hwait⟩ | ⟨hexec, -⟩ | ⟨-, hwait⟩ := sequencerStep_cases s
  · cases hwait.symm.trans h
    exact .sequencerWaits
  · rw [sequencerStep_of_exec hexec] at h
    exact .compute hexec (execOutcome_of_exec hexec h)
  · cases hwait.symm.trans h
    exact .sequencerWaits

theorem moveEffect_of_transportStep (rdy vld ok : Bool) (s : State) :
    MoveEffect s (.transport rdy vld ok) (transportStep rdy vld ok s) := by
  obtain h | ⟨hp, rfl, h⟩ | ⟨hp, rfl, rfl, h⟩ | ⟨hp, rfl, rfl, h⟩ := transportStep_cases rdy vld ok s <;> rw [h]
  · exact .transportWaits rdy vld ok
  · exact .beat vld ok hp
  · exact .answerOk rdy hp
  · exact .answerFail rdy hp

/-- `MoveEffect` says all that a move can do. -/
theorem moveEffect_of_eventStep {e : Event} {s t : State} (h : eventStep e s = .next t) : MoveEffect s e t := by
  cases e with
  | hostRead width off =>
    obtain ⟨tgt, -, rfl⟩ := hostRead_cases h
    exact .read width off _
  | hostWrite width off v => exact moveEffect_of_hostWrite h
  | sequencer => exact moveEffect_of_sequencerStep h
  | transport rdy vld ok =>
    cases h
    exact moveEffect_of_transportStep rdy vld ok s
  | reset =>
    cases h
    exact .reset

/-- A step has the effect of its move. -/
theorem moveEffect_of_step {s t : State} (h : step s = .next t) : MoveEffect (takeMove s) (nextEvent s) t :=
  moveEffect_of_eventStep ((step_eq s).symm.trans h)

end Sys2Proof.Machine
end

section
/-! What the commands and the busy block leave unchanged (10_state.md R35 (f), R40), and the canonical form of the buffers
(R23, R30, log entry 13). -/

namespace Sys2Proof.Machine

/-! ## The operands and the configuration -/

/-- The operands and the configuration are the same in both states (R21 to R26). -/
structure SameOperands (s t : State) : Prop where
  len1 : t.len1 = s.len1
  len2 : t.len2 = s.len2
  line1 : t.line1 = s.line1
  line2 : t.line2 = s.line2
  cfg0 : t.cfg0 = s.cfg0
  cfgFg : t.cfgFg = s.cfgFg
  cfgBg : t.cfgBg = s.cfgBg

theorem ExecOutcome.sameOperands {s t : State} {op : Op} (h : ExecOutcome s op t) : SameOperands s t := by
  cases h <;> exact ⟨rfl, rfl, rfl, rfl, rfl, rfl, rfl⟩

theorem CommandEffect.sameOperands {s t : State} {i : Instr} (h : CommandEffect s i t) : SameOperands s t := by
  cases h with
  | compute _ hout => exact hout.sameOperands
  | _ => exact ⟨rfl, rfl, rfl, rfl, rfl, rfl, rfl⟩

/-! ## The frame in `FB` and the results -/

/-- Only BUILD and ENCODE store a frame (R40). -/
theorem ExecOutcome.fb_eq {s t : State} {op : Op} (h : ExecOutcome s op t) :
    t.fb = s.fb ∧ t.flen = s.flen ∨ op = .build ∨ op = .encode := by
  cases h with
  | build => exact .inr (.inl rfl)
  | encode => exact .inr (.inr rfl)
  | _ => exact .inl ⟨rfl, rfl⟩

/-- `FLEN` after a frame that fits `FB` is stored (R156). -/
theorem toNat_storeFrame_flen {f : List Byte} (hf : f.length ≤ 5114) (s : State) :
    (storeFrame f s).flen.toNat = f.length := by
  rw [storeFrame_flen, BitVec.toNat_ofNat, Nat.mod_eq_of_lt (by omega)]

/-- At and above the new `FLEN` a command keeps every cell of `FB` (R40, R156). -/
theorem ExecOutcome.read_fb_of_le {s t : State} {op : Op} (h : ExecOutcome s op t) {j : Nat} (hj : t.flen.toNat ≤ j) :
    Memory.read t.fb j = Memory.read s.fb j := by
  cases h with
  | build f hf => exact read_storeFrame_of_le ((toNat_storeFrame_flen hf s).symm.trans_le hj) s
  | encode f hf => exact read_storeFrame_of_le ((toNat_storeFrame_flen hf s).symm.trans_le hj) s
  | _ => rfl

theorem ExecOutcome.crc_eq_of_build {s t : State} (h : ExecOutcome s .build t) : t.crc = s.crc := by
  cases h <;> rfl

/-- Only CHUNK and ENCODE write the sequencer's counters (R40, R197). -/
theorem ExecOutcome.counters_eq {s t : State} {op : Op} (h : ExecOutcome s op t) :
    t.nchunk = s.nchunk ∧ t.k = s.k ∧ t.pos = s.pos ∨ op = .chunk ∨ op = .encode := by
  cases h with
  | chunk => exact .inr (.inl rfl)
  | encode => exact .inr (.inr rfl)
  | _ => exact .inl ⟨rfl, rfl, rfl⟩

theorem CommandEffect.environment_eq {s t : State} {i : Instr} (h : CommandEffect s i t) :
    t.received = s.received ∧ t.reads = s.reads ∧ t.agenda = s.agenda := by
  cases h with
  | compute _ hout => cases hout <;> exact ⟨rfl, rfl, rfl⟩
  | _ => exact ⟨rfl, rfl, rfl⟩

theorem CommandEffect.fb_eq {s t : State} {i : Instr} (h : CommandEffect s i t) :
    t.fb = s.fb ∧ t.flen = s.flen ∨ i = .build ∨ i = .encode := by
  cases h with
  | compute _ hout => exact hout.fb_eq.imp_right (.imp (congrArg Op.instr) (congrArg Op.instr))
  | _ => exact .inl ⟨rfl, rfl⟩

theorem CommandEffect.read_fb_of_le {s t : State} {i : Instr} (h : CommandEffect s i t) {j : Nat}
    (hj : t.flen.toNat ≤ j) : Memory.read t.fb j = Memory.read s.fb j := by
  cases h with
  | compute _ hout => exact hout.read_fb_of_le hj
  | _ => rfl

/-- NOP, BUILD and CLEAR do not write `CRC` (R40). -/
theorem CommandEffect.crc_eq {s t : State} {i : Instr} (h : CommandEffect s i t)
    (hi : i = .nop ∨ i = .build ∨ i = .clear) : t.crc = s.crc := by
  cases h with
  | @compute op _ _ hout =>
    obtain rfl : op = .build := by cases op <;> simp [Op.instr] at hi ⊢
    exact hout.crc_eq_of_build
  | _ => rfl

theorem CommandEffect.counters_eq {s t : State} {i : Instr} (h : CommandEffect s i t) :
    t.nchunk = s.nchunk ∧ t.k = s.k ∧ t.pos = s.pos ∨ i = .chunk ∨ i = .encode := by
  cases h with
  | compute _ hout => exact hout.counters_eq.imp_right (.imp (congrArg Op.instr) (congrArg Op.instr))
  | _ => exact .inl ⟨rfl, rfl, rfl⟩

/-- Settles O14: field by field, from what a command can do. -/
theorem commandFrame : Obligations.CommandFrame := by
  intro i s t h
  have heff := commandEffect_of_exec h
  obtain ⟨hlen1, hlen2, hline1, hline2, hcfg0, hfg, hbg⟩ := heff.sameOperands
  obtain ⟨hreceived, hreads, hagenda⟩ := heff.environment_eq
  refine ⟨hlen1, hlen2, hline1, hline2, hcfg0, hfg, hbg, hreceived, hreads, hagenda,
    fun hi => exec_werr_of_ne_clear hi h, fun hb he => ?_, fun _ _ hj => heff.read_fb_of_le hj, heff.crc_eq,
    fun hc he => heff.counters_eq.resolve_right (not_or.2 ⟨hc, he⟩)⟩
  obtain ⟨hfb, hflen⟩ := heff.fb_eq.resolve_right (not_or.2 ⟨hb, he⟩)
  exact ⟨hflen, fun j => by rw [hfb]⟩

/-! ## While `BUSY` is 1 (R35 (f)) -/

theorem beat_frame (s : State) :
    SameOperands s (beat s) ∧ (beat s).fb = s.fb ∧ (beat s).flen = s.flen := by
  unfold beat
  split_ifs <;> exact ⟨⟨rfl, rfl, rfl, rfl, rfl, rfl, rfl⟩, rfl, rfl⟩

theorem answerOk_frame (s : State) :
    SameOperands s (answerOk s) ∧ (answerOk s).fb = s.fb ∧ (answerOk s).flen = s.flen := by
  unfold answerOk
  split_ifs <;> exact ⟨⟨rfl, rfl, rfl, rfl, rfl, rfl, rfl⟩, rfl, rfl⟩

/-- While `BUSY` is 1 no move but reset writes an operand, and only the `EXEC` step of BUILD or ENCODE writes the frame. -/
theorem MoveEffect.busy_frame {e : Event} {s t : State} (h : MoveEffect s e t) (hb : s.status.busy = true)
    (hne : e ≠ .reset) : SameOperands s t ∧ (t.fb = s.fb ∧ t.flen = s.flen ∨
      s.phase = .exec ∧ (s.op = .build ∨ s.op = .encode) ∧ e = .sequencer) := by
  cases h with
  | command hidle => cases hb.symm.trans hidle
  | illegal _ hidle => cases hb.symm.trans hidle
  | write _ _ _ hidle => cases hb.symm.trans hidle
  | compute hexec hout => exact ⟨hout.sameOperands, hout.fb_eq.imp_right fun hop => ⟨hexec, hop, rfl⟩⟩
  | beat => exact ⟨(beat_frame s).1, .inl (beat_frame s).2⟩
  | answerOk => exact ⟨(answerOk_frame s).1, .inl (answerOk_frame s).2⟩
  | reset => exact absurd rfl hne
  | _ => exact ⟨⟨rfl, rfl, rfl, rfl, rfl, rfl, rfl⟩, .inl ⟨rfl, rfl⟩⟩

/-- A step that is not reset is another move. -/
theorem nextEvent_ne_reset {s : State} (h : s.agenda.head? ≠ some .reset) : nextEvent s ≠ .reset := fun he =>
  h (head?_of_nextEvent he nofun)

/-- Settles O52: `MoveEffect.busy_frame`, for the move the step makes. -/
theorem operandsStandStillWhileBusy : Obligations.OperandsStandStillWhileBusy := by
  intro s t _ hb hne h
  obtain ⟨⟨hlen1, hlen2, hline1, hline2, hcfg0, hfg, hbg⟩, hframe⟩ :=
    (moveEffect_of_step h).busy_frame hb (nextEvent_ne_reset hne)
  refine ⟨hlen1, hlen2, hline1, hline2, hcfg0, hfg, hbg, fun hchange => ?_⟩
  obtain ⟨hfb, hflen⟩ | ⟨hexec, hop, he⟩ := hframe
  · exact absurd hflen (hchange.resolve_left (not_not.2 hfb))
  · exact ⟨hexec, hop, agenda_of_nextEvent_sequencer he⟩

/-! ## The canonical form of the buffers -/

/-- Storing a frame that fits `FB` keeps its form (R156). -/
theorem wf_storeFrame {f : List Byte} {s : State} (hf : f.length ≤ 5114) (h : BuffersWf s) :
    BuffersWf (storeFrame f s) := by
  obtain ⟨h1, h2, hfb⟩ := h
  exact ⟨h1, h2, Memory.wf_writeRange hfb (by simpa using hf)⟩

theorem ExecOutcome.buffersWf {s t : State} {op : Op} (h : ExecOutcome s op t) (hwf : BuffersWf s) : BuffersWf t := by
  cases h with
  | build f hf => exact wf_storeFrame hf hwf
  | encode f hf => exact wf_storeFrame hf hwf
  | _ => exact hwf

theorem CommandEffect.buffersWf {s t : State} {i : Instr} (h : CommandEffect s i t) (hwf : BuffersWf s) :
    BuffersWf t := by
  cases h with
  | compute _ hout => exact hout.buffersWf hwf
  | _ => exact hwf

/-- A write to a cell that exists keeps the form of its buffer (R63). -/
theorem buffersWf_writeTarget {tgt : Target} {s : State} (htgt : tgt.exists? = true) (v : Word) (hwf : BuffersWf s) :
    BuffersWf (writeTarget tgt v s) := by
  obtain ⟨h1, h2, hfb⟩ := hwf
  cases tgt with
  | line1 i => exact ⟨Memory.wf_write h1 (of_decide_eq_true htgt), h2, hfb⟩
  | line2 i => exact ⟨h1, Memory.wf_write h2 (of_decide_eq_true htgt), hfb⟩
  | fb j => exact ⟨h1, h2, Memory.wf_write hfb (of_decide_eq_true htgt)⟩
  | _ => exact ⟨h1, h2, hfb⟩

theorem SameOperands.buffersWf {s t : State} (h : SameOperands s t) (hfb : t.fb = s.fb) (hwf : BuffersWf s) :
    BuffersWf t := by
  rw [BuffersWf, h.line1, h.line2, hfb]
  exact hwf

/-- After reset the buffers are empty (R38). -/
theorem buffersWf_reset : BuffersWf State.reset := ⟨Memory.wf_nil _, Memory.wf_nil _, Memory.wf_nil _⟩

theorem MoveEffect.buffersWf {e : Event} {s t : State} (h : MoveEffect s e t) (hwf : BuffersWf s) : BuffersWf t := by
  cases h with
  | command _ _ heff => exact heff.buffersWf hwf
  | write _ _ v _ htgt => exact buffersWf_writeTarget htgt v hwf
  | compute _ hout => exact hout.buffersWf hwf
  | beat => exact (beat_frame s).1.buffersWf (beat_frame s).2.1 hwf
  | answerOk => exact (answerOk_frame s).1.buffersWf (answerOk_frame s).2.1 hwf
  | reset => exact buffersWf_reset
  | _ => exact hwf

/-- Settles O51: every move keeps the form, by what it can do. -/
theorem stepKeepsTheBuffersCanonical : Obligations.StepKeepsTheBuffersCanonical := fun _ _ hwf h =>
  (moveEffect_of_step h).buffersWf hwf

end Sys2Proof.Machine
end

section
/-! The invariants of the state (10_state.md R35 (a) to (e)) and the transitions of `PHASE` (45_host_commands.md R223). -/

namespace Sys2Proof.Machine

/-! ## How a state meets the invariants, by its phase -/

theorem not_sending_of_idle {s : State} (h : s.phase = .idle) : ¬ Sending s := by simp [Sending, h]

theorem not_sending_of_exec {s : State} (h : s.phase = .exec) : ¬ Sending s := by simp [Sending, h]

theorem phase_ne_idle_of_sending {s : State} (h : Sending s) : s.phase ≠ .idle := fun hidle =>
  not_sending_of_idle hidle h

/-- With `BUSY` 0 the block is in `IDLE` (R35 (a)). -/
theorem Inv.idle_of_not_busy {s : State} (h : Inv s) (hb : s.status.busy = false) : s.phase = .idle := by
  by_contra hne
  cases hb.symm.trans (h.busy_iff.2 hne)

/-- In `IDLE` the invariants speak of the flags and `ERRINFO` alone (R35 (a) to (c)). -/
theorem Inv.of_idle {s : State} (hidle : s.phase = .idle) (hbusy : s.status.busy = false)
    (hboth : ¬ (s.status.done = true ∧ s.status.err = true)) (hcode : s.status.errCode ≠ 0 ↔ s.status.err = true)
    (hinfo : s.status.err = false → s.errInfo = 0) : Inv s where
  busy_iff := by simp [hidle, hbusy]
  not_both := hboth
  busy_clean := by simp [hbusy]
  errCode_iff := hcode
  errInfo_zero := hinfo
  flen_le := fun h => absurd h (not_sending_of_idle hidle)
  crc_eq := fun h => absurd h (not_sending_of_idle hidle)
  k_lt := fun h => absurd h (not_sending_of_idle hidle)
  nchunk_eq := fun h => absurd h (not_sending_of_idle hidle)
  op_sends := fun h => absurd h (not_sending_of_idle hidle)
  pos_lt := by simp [hidle]

/-- The flags and `ERRINFO` while a command runs (R35 (a) to (c)). -/
structure RunningFlags (s : State) : Prop where
  busy : s.status.busy = true
  done : s.status.done = false
  err : s.status.err = false
  errCode : s.status.errCode = 0
  errInfo : s.errInfo = 0

theorem Inv.runningFlags {s : State} (h : Inv s) (hp : s.phase ≠ .idle) : RunningFlags s := by
  obtain ⟨hbusy, hdone, herr, hcode, hinfo⟩ := h.busy_facts hp
  exact ⟨hbusy, hdone, herr, hcode, hinfo⟩

/-- What the invariants ask of a state that sends (R35 (d), (e)). -/
structure SendingFacts (s : State) : Prop where
  flen_le : s.flen.toNat ≤ 5114
  crc_eq : FrameWritten s → s.crc = crc32 (frameOperand s)
  k_lt : s.k < nchunks 4096 s.flen.toNat
  nchunk_eq : s.nchunk.toNat = s.k
  op_sends : s.op = .chunk ∨ s.op = .encode

theorem Inv.sendingFacts {s : State} (h : Inv s) (hs : Sending s) : SendingFacts s where
  flen_le := by simpa using h.flen_le hs
  crc_eq := h.crc_eq hs
  k_lt := by simpa using h.k_lt hs
  nchunk_eq := h.nchunk_eq hs
  op_sends := h.op_sends hs

/-- While a command runs the flags are those of `RunningFlags`, and (d) and (e) speak of a sending block alone. -/
theorem Inv.of_running {s : State} (hf : RunningFlags s) (hp : s.phase ≠ .idle) (hs : Sending s → SendingFacts s)
    (hpos : s.phase = .emit → s.pos < bufLenAt s s.k) : Inv s where
  busy_iff := by simp [hf.busy, hp]
  not_both := by simp [hf.done]
  busy_clean := fun _ => ⟨hf.done, hf.err⟩
  errCode_iff := by simp [hf.errCode, hf.err]
  errInfo_zero := fun _ => hf.errInfo
  flen_le := fun h => by simpa using (hs h).flen_le
  crc_eq := fun h => (hs h).crc_eq
  k_lt := fun h => by simpa using (hs h).k_lt
  nchunk_eq := fun h => (hs h).nchunk_eq
  op_sends := fun h => (hs h).op_sends
  pos_lt := hpos

/-- Settles O49: `State.reset` is idle with all flags 0, and its buffers are empty. -/
theorem invariantsHoldAtReset : Obligations.InvariantsHoldAtReset :=
  ⟨.of_idle rfl rfl (by decide) (by decide) fun _ => rfl, buffersWf_reset⟩

/-! ## The operations of the block keep the invariants -/

/-- The entry of an error gives a state that meets them, whatever it was entered from (R256). -/
theorem inv_raise (e : CmdError) (s : State) : Inv (raise e s) := by
  have hcode : e.code ≠ 0 := by cases e <;> simp [CmdError.code]
  exact .of_idle rfl rfl (by simp) (by simpa using hcode) (by simp)

/-- The good end of a running command (R225). -/
theorem inv_goodEnd {s : State} (hf : RunningFlags s) : Inv (goodEnd s) :=
  .of_idle rfl rfl (by simp [hf.err]) (by simp [hf.errCode, hf.err]) fun _ => hf.errInfo

/-- Acceptance (R221). -/
theorem inv_accept (op : Op) (s : State) : Inv (accept op s) :=
  .of_running ⟨rfl, rfl, rfl, rfl, rfl⟩ nofun (fun h => absurd h (not_sending_of_exec rfl)) nofun

/-- CLEAR taken in `IDLE` (R228). -/
theorem inv_clearStatus {s : State} (hidle : s.phase = .idle) (hb : s.status.busy = false) : Inv (clearStatus s) :=
  .of_idle hidle hb (by simp) (by simp) fun _ => rfl

/-- No buffer is empty: it has its header (R192). -/
theorem zero_lt_bufLenAt (s : State) (k : Nat) : 0 < bufLenAt s k :=
  Nat.lt_of_lt_of_le (by decide) (bufLenAt_pos s k)

/-- The start of an emission (R197): buffer 0 always exists, and it is never empty. -/
theorem inv_emitStart {s : State} (hf : RunningFlags s) (hlen : s.flen.toNat ≤ 5114)
    (hcrc : FrameWritten s → s.crc = crc32 (frameOperand s)) (hop : s.op = .chunk ∨ s.op = .encode) :
    Inv (emitStart s) := by
  obtain ⟨hbusy, hdone, herr, hcode, hinfo⟩ := hf
  refine .of_running ⟨hbusy, hdone, herr, hcode, hinfo⟩ nofun (fun _ => ⟨hlen, hcrc, ?_, rfl, hop⟩) fun _ =>
    zero_lt_bufLenAt _ _
  exact nchunks_pos (by decide) _

/-- The frame in `FB` does not depend on the checksum or the draws, where it is written. -/
theorem frameOperand_of_same_fb {s t : State} (hw : FrameWritten t) (hlen : t.flen = s.flen) (hfb : t.fb = s.fb) :
    frameOperand t = frameOperand s := by
  obtain ⟨hiff, heq⟩ := frameOperand_congr hlen hfb
  exact heq (hiff.1 hw)

theorem ExecOutcome.inv {s t : State} (h : ExecOutcome s s.op t) (hf : RunningFlags s) : Inv t := by
  generalize hop : s.op = op at h
  obtain ⟨hbusy, hdone, herr, hcode, hinfo⟩ := hf
  cases h with
  | capacity => exact inv_raise _ s
  | range => exact inv_raise _ s
  | build => exact inv_goodEnd ⟨hbusy, hdone, herr, hcode, hinfo⟩
  | crc => exact inv_goodEnd ⟨hbusy, hdone, herr, hcode, hinfo⟩
  | chunk hlen =>
    refine inv_emitStart ⟨hbusy, hdone, herr, hcode, hinfo⟩ hlen (fun hw => ?_) (.inl hop)
    rw [frameOperand_of_same_fb (s := s) hw rfl rfl]
    rfl
  | encode f hf =>
    refine inv_emitStart ⟨hbusy, hdone, herr, hcode, hinfo⟩ ?_ (fun _ => ?_) (.inr hop)
    · exact (toNat_storeFrame_flen hf s).trans_le hf
    · obtain ⟨-, hframe⟩ := frameOperand_of_stored (s := s) (f := f) (by omega)
        (t := tick { storeFrame f s with crc := crc32 f }) rfl rfl
      rw [hframe]
      rfl

theorem CommandEffect.inv {s t : State} {i : Instr} (h : CommandEffect s i t) (hinv : Inv s)
    (hb : s.status.busy = false) : Inv t := by
  have hidle := hinv.idle_of_not_busy hb
  cases h with
  | nop => exact hinv
  | clear => exact inv_clearStatus hidle hb
  | accept op => exact inv_accept op s
  | compute hexec => cases hidle.symm.trans hexec
  | wait => exact hinv

/-- A sending block goes on sending the same frame: the invariants ask for the counters alone. -/
theorem Inv.of_still_sending {s t : State} (hinv : Inv s) (hs : Sending s) (ht : Sending t)
    (hstatus : t.status = s.status) (hinfo : t.errInfo = s.errInfo) (hflen : t.flen = s.flen) (hfb : t.fb = s.fb)
    (hcrc : t.crc = s.crc) (hop : t.op = s.op) (hk : t.k < nchunks 4096 s.flen.toNat) (hnchunk : t.nchunk.toNat = t.k)
    (hpos : t.phase = .emit → t.pos < bufLenAt t t.k) : Inv t := by
  obtain ⟨hbusy, hdone, herr, hcode, hinfo0⟩ := hinv.runningFlags (phase_ne_idle_of_sending hs)
  obtain ⟨hlen, hcrceq, -, -, hops⟩ := hinv.sendingFacts hs
  refine .of_running ⟨hstatus ▸ hbusy, hstatus ▸ hdone, hstatus ▸ herr, hstatus ▸ hcode, hinfo.trans hinfo0⟩
    (phase_ne_idle_of_sending ht) (fun _ => ⟨hflen ▸ hlen, fun hw => ?_, hflen ▸ hk, hnchunk, hop ▸ hops⟩) hpos
  rw [hcrc, hcrceq ((frameOperand_congr hflen hfb).1.1 hw), frameOperand_of_same_fb hw hflen hfb]

/-- Where the next byte of a buffer stands: before the buffer's final byte or on it (R35 (e)). -/
theorem Inv.pos_cases {s : State} (h : Inv s) (hemit : s.phase = .emit) :
    s.pos + 1 < bufLenAt s s.k ∨ s.pos + 1 = bufLenAt s s.k :=
  Nat.lt_or_eq_of_le (Nat.succ_le_of_lt (h.pos_lt hemit))

theorem inv_beat {s : State} (h : Inv s) (hemit : s.phase = .emit) : Inv (beat s) := by
  have hs : Sending s := .inl hemit
  obtain ⟨-, -, hk, hn, -⟩ := h.sendingFacts hs
  obtain hlt | heq := h.pos_cases hemit
  · rw [beat_of_lt hlt]
    exact h.of_still_sending hs (.inl hemit) rfl rfl rfl rfl rfl rfl hk hn fun _ => hlt
  · rw [beat_of_eq heq]
    exact h.of_still_sending hs (.inr rfl) rfl rfl rfl rfl rfl rfl hk hn nofun

/-- `NCHUNK` counts on without overflow: a frame that fits `FB` makes at most two buffers (R185). -/
theorem SendingFacts.toNat_nchunk_succ {s : State} (h : SendingFacts s) : (s.nchunk + 1).toNat = s.k + 1 := by
  have hk := h.k_lt
  have htwo := nchunks_hw_le h.flen_le
  have hn := h.nchunk_eq
  rw [BitVec.toNat_add, hn]
  exact Nat.mod_eq_of_lt (by simp; omega)

theorem inv_answerOk {s : State} (h : Inv s) (hresp : s.phase = .resp) : Inv (answerOk s) := by
  have hs : Sending s := .inr hresp
  obtain ⟨hbusy, hdone, herr, hcode, hinfo⟩ := h.runningFlags (phase_ne_idle_of_sending hs)
  obtain hlt | hle := Nat.lt_or_ge (s.k + 1) (nchunks 4096 s.flen.toNat)
  · rw [answerOk_of_lt hlt]
    exact h.of_still_sending hs (.inl rfl) rfl rfl rfl rfl rfl rfl hlt (h.sendingFacts hs).toNat_nchunk_succ
      fun _ => zero_lt_bufLenAt _ _
  · rw [answerOk_of_le hle]
    exact inv_goodEnd ⟨hbusy, hdone, herr, hcode, hinfo⟩

/-- A write to a register or cell, made in `IDLE`, leaves the flags (R63). -/
theorem inv_writeTarget {s : State} (h : Inv s) (hb : s.status.busy = false) (tgt : Target) (v : Word) :
    Inv (writeTarget tgt v s) := by
  obtain ⟨hstatus, hinfo, -, -, hphase, -⟩ := writeTarget_frame tgt v s
  refine .of_idle (hphase.trans (h.idle_of_not_busy hb)) (hstatus ▸ hb) ?_ ?_ ?_
  · exact hstatus ▸ h.not_both
  · exact hstatus ▸ h.errCode_iff
  · exact hstatus ▸ hinfo ▸ h.errInfo_zero

theorem inv_resetBlock (s : State) : Inv (resetBlock s) :=
  .of_idle rfl rfl (by simp [State.reset]) (by simp [State.reset]) fun _ => rfl

theorem MoveEffect.inv {e : Event} {s t : State} (h : MoveEffect s e t) (hinv : Inv s) : Inv t := by
  cases h with
  | read => exact inv_congr (s := s) rfl rfl rfl rfl rfl rfl rfl rfl rfl rfl rfl rfl rfl hinv
  | dropped => exact inv_congr (s := s) rfl rfl rfl rfl rfl rfl rfl rfl rfl rfl rfl rfl rfl hinv
  | command hb _ heff => exact heff.inv hinv hb
  | illegal => exact inv_raise _ s
  | write _ _ v hb => exact inv_writeTarget hinv hb _ v
  | sequencerWaits => exact hinv
  | compute hexec hout => exact hout.inv (hinv.runningFlags (by simp [hexec]))
  | transportWaits => exact hinv
  | beat _ _ hemit => exact inv_beat hinv hemit
  | answerOk _ hresp => exact inv_answerOk hinv hresp
  | answerFail => exact inv_raise _ s
  | reset => exact inv_resetBlock s

/-- The invariants do not speak of the agenda. -/
theorem inv_takeMove {s : State} (h : Inv s) : Inv (takeMove s) :=
  inv_congr (s := s) rfl rfl rfl rfl rfl rfl rfl rfl rfl rfl rfl rfl rfl h

/-- Settles O50: every move keeps the invariants, by what it can do. -/
theorem stepKeepsTheInvariants : Obligations.StepKeepsTheInvariants := fun _ _ hinv h =>
  (moveEffect_of_step h).inv (inv_takeMove hinv)

/-! ## The transitions of `PHASE` (R223) -/

/-- The rows of the transition table: `PHASE` changes from `s` to `t` on the move `e`. -/
inductive PhaseChange (s t : State) : Event → Prop
  | reset (ht : t.phase = .idle) : PhaseChange s t .reset
  | accepted {v : Word} (hs : s.phase = .idle) (ht : t.phase = .exec) (hdec : decode v = .ok t.op.instr) :
      PhaseChange s t (.hostWrite 32 0x00 v)
  | computed (hs : s.phase = .exec) (ht : t.phase = .idle) (hdone : t.status.done = true)
      (hop : s.op = .build ∨ s.op = .crc) : PhaseChange s t .sequencer
  | failed (hs : s.phase = .exec) (ht : t.phase = .idle) (herr : t.status.err = true)
      (hcode : t.status.errCode = 1 ∨ t.status.errCode = 4) : PhaseChange s t .sequencer
  | started (hs : s.phase = .exec) (ht : t.phase = .emit) (hk : t.k = 0) (hpos : t.pos = 0)
      (hop : s.op = .chunk ∨ s.op = .encode) : PhaseChange s t .sequencer
  | sent (vld ok : Bool) (hs : s.phase = .emit) (ht : t.phase = .resp) (hpos : s.pos + 1 = bufLenAt s s.k) :
      PhaseChange s t (.transport true vld ok)
  | nextChunk (rdy : Bool) (hs : s.phase = .resp) (ht : t.phase = .emit) (hk : t.k = s.k + 1) (hpos : t.pos = 0)
      (hlt : t.k < nchunks 4096 s.flen.toNat) : PhaseChange s t (.transport rdy true true)
  | delivered (rdy : Bool) (hs : s.phase = .resp) (ht : t.phase = .idle) (hdone : t.status.done = true)
      (hlast : s.k + 1 = nchunks 4096 s.flen.toNat) : PhaseChange s t (.transport rdy true true)
  | refused (rdy : Bool) (hs : s.phase = .resp) (ht : t.phase = .idle) (herr : t.status.err = true) :
      PhaseChange s t (.transport rdy true false)

theorem ExecOutcome.phaseChange {s t : State} (h : ExecOutcome s s.op t) (hexec : s.phase = .exec) :
    PhaseChange s t .sequencer := by
  generalize hop : s.op = op at h
  cases h with
  | capacity => exact .failed hexec rfl rfl (.inl rfl)
  | range => exact .failed hexec rfl rfl (.inr rfl)
  | build => exact .computed hexec rfl rfl (.inl hop)
  | crc => exact .computed hexec rfl rfl (.inr hop)
  | chunk => exact .started hexec rfl rfl rfl (.inl hop)
  | encode => exact .started hexec rfl rfl rfl (.inr hop)

/-- Taken in `IDLE`, only an accepted command changes `PHASE` (R221, R227, R228). -/
theorem CommandEffect.phaseChange {s t : State} {i : Instr} {v : Word} (h : CommandEffect s i t)
    (hidle : s.phase = .idle) (hdec : decode v = .ok i) (hne : t.phase ≠ s.phase) :
    PhaseChange s t (.hostWrite 32 0x00 v) := by
  cases h with
  | accept op => exact .accepted hidle rfl hdec
  | compute hexec => cases hidle.symm.trans hexec
  | _ => exact absurd rfl hne

theorem MoveEffect.phaseChange {e : Event} {s t : State} (h : MoveEffect s e t) (hinv : Inv s)
    (hne : t.phase ≠ s.phase) : PhaseChange s t e := by
  cases h with
  | command hb hdec heff => exact heff.phaseChange (hinv.idle_of_not_busy hb) hdec hne
  | illegal _ hb => exact absurd (hinv.idle_of_not_busy hb).symm hne
  | @write _ _ v tgt =>
    obtain ⟨-, -, -, -, hphase, -⟩ := writeTarget_frame tgt v s
    exact absurd hphase hne
  | compute hexec hout => exact hout.phaseChange hexec
  | beat vld ok hemit =>
    obtain hlt | heq := hinv.pos_cases hemit
    · rw [beat_of_lt hlt] at hne
      exact absurd rfl hne
    · rw [beat_of_eq heq]
      exact .sent vld ok hemit rfl heq
  | answerOk rdy hresp =>
    obtain hlt | hle := Nat.lt_or_ge (s.k + 1) (nchunks 4096 s.flen.toNat)
    · rw [answerOk_of_lt hlt]
      exact .nextChunk rdy hresp rfl rfl rfl hlt
    · rw [answerOk_of_le hle]
      have hk := (hinv.sendingFacts (.inr hresp)).k_lt
      exact .delivered rdy hresp rfl rfl (Nat.le_antisymm (Nat.succ_le_of_lt hk) hle)
  | answerFail rdy hresp => exact .refused rdy hresp rfl rfl
  | reset => exact .reset rfl
  | _ => exact absurd rfl hne

/-- Settles O53: every change of `PHASE` is a row of `PhaseChange`, on the move that the agenda holds. -/
theorem phaseTransitions : Obligations.PhaseTransitions := by
  intro s t hinv h hne
  have hchange := (moveEffect_of_step h).phaseChange (inv_takeMove hinv) hne
  generalize he : nextEvent s = e at hchange
  have hseq := agenda_of_nextEvent_sequencer (s := s)
  have hhead := head?_of_nextEvent he
  cases hchange with
  | reset ht => exact .inl ⟨hhead nofun, ht⟩
  | accepted hs ht hdec => exact .inr (.inl ⟨hs, ht, _, hhead nofun, hdec⟩)
  | computed hs ht hdone hop => exact .inr (.inr (.inl ⟨hs, hseq he, .inl ⟨ht, hdone, hop⟩⟩))
  | failed hs ht herr hcode => exact .inr (.inr (.inl ⟨hs, hseq he, .inr (.inl ⟨ht, herr, hcode⟩)⟩))
  | started hs ht hk hpos hop => exact .inr (.inr (.inl ⟨hs, hseq he, .inr (.inr ⟨ht, hk, hpos, hop⟩)⟩))
  | sent vld ok hs ht hpos => exact .inr (.inr (.inr (.inl ⟨hs, ht, hpos, vld, ok, hhead nofun⟩)))
  | nextChunk rdy hs ht hk hpos hlt =>
    exact .inr (.inr (.inr (.inr ⟨hs, rdy, true, hhead nofun, .inl ⟨rfl, ht, hk, hpos, hlt⟩⟩)))
  | delivered rdy hs ht hdone hlast =>
    exact .inr (.inr (.inr (.inr ⟨hs, rdy, true, hhead nofun, .inr (.inl ⟨rfl, ht, hdone, hlast⟩)⟩)))
  | refused rdy hs ht herr =>
    exact .inr (.inr (.inr (.inr ⟨hs, rdy, false, hhead nofun, .inr (.inr ⟨rfl, ht, herr⟩)⟩)))

end Sys2Proof.Machine
end

section
/-! The transport stream as a whole (44_chunk_splitter.md R195, R200 to R206): the byte on offer, what has been received after
each move, and the run of a transport that is always ready (R224). -/

namespace Sys2Proof.Machine

/-! ## The byte on offer (R195, R200) -/

/-- With the frame's checksum in `CRC` the machine's view of a buffer's header is the header (R190, R195). -/
theorem chunkHdr_eq_headerBytes {s : State} (hcrc : s.crc = crc32 (frameOperand s)) (k : Nat) :
    chunkHdr 4096 (frameOperand s) k = headerBytes (sliceLenAt s k) k s.flen.toNat s.crc := by
  rw [chunkHdr, hcrc, sliceLenAt_eq, length_frameOperand]

/-- A byte of a slice is the byte of `FB` the machine reads for it (R186, R195). -/
theorem getElem?_slice_frameOperand {s : State} {k i : Nat} (h : i < sliceLenAt s k) :
    (slice 4096 (frameOperand s) k)[i]? = some (fbByte s (k * 4096 + i)) := by
  have hi : i < min 4096 (s.flen.toNat - k * 4096) := by simpa [sliceLenAt] using h
  have hchunk : i < 4096 := by omega
  have hframe : k * 4096 + i < s.flen.toNat := by omega
  simp [slice_eq_take_drop, frameOperand, hchunk, hframe]

theorem bufByteAt_of_lt {j : Nat} (h : j < 16) (s : State) (k : Nat) :
    bufByteAt s k j = (headerBytes (sliceLenAt s k) k s.flen.toNat s.crc).getD j 0 := if_pos h

theorem bufByteAt_of_le {j : Nat} (h : 16 ≤ j) (s : State) (k : Nat) :
    bufByteAt s k j = fbByte s (k * 4096 + (j - 16)) := by
  rw [← Nat.add_sub_assoc h]
  exact if_neg (Nat.not_lt.2 h)

/-- Byte j of the machine's view of buffer k is byte j of the buffer (R195). -/
theorem getElem?_chunkBuf {s : State} (hcrc : s.crc = crc32 (frameOperand s)) {k j : Nat} (hj : j < bufLenAt s k) :
    (chunkBuf 4096 (frameOperand s) k)[j]? = some (bufByteAt s k j) := by
  rw [chunkBuf, chunkHdr_eq_headerBytes hcrc]
  obtain hhdr | hhdr := Nat.lt_or_ge j 16
  · rw [List.getElem?_append_left hhdr, bufByteAt_of_lt hhdr, List.getD_eq_getElem?_getD,
      List.getElem?_eq_getElem hhdr, Option.getD_some]
  · have hslice : j - 16 < sliceLenAt s k := by
      rw [bufLenAt, hdrLen] at hj
      omega
    rw [List.getElem?_append_right hhdr, bufByteAt_of_le hhdr, length_headerBytes, getElem?_slice_frameOperand hslice]

/-- Settles O29: `txData` is `bufByteAt`, which is the buffer's byte; `txLast` compares `POS` with the buffer's length. -/
theorem offeredByteIsTheBuffersByte : Obligations.OfferedByteIsTheBuffersByte := by
  intro s
  refine ⟨decide_eq_true_iff, fun hinv hemit hw => ⟨?_, ?_⟩⟩
  · rw [hw_chunkSize]
    exact getElem?_chunkBuf (hinv.crc_eq (.inl hemit) hw) (hinv.pos_lt hemit)
  · rw [hw_chunkSize, ← bufLenAt_eq]
    exact decide_eq_true_iff

/-! ## The beats of a buffer and of a frame (R72) -/

/-- One more beat of a buffer. -/
theorem take_succ_bufferBeats {l : List Byte} {i : Nat} {b : Byte} (h : l[i]? = some b) :
    (bufferBeats l).take (i + 1) = (bufferBeats l).take i ++ [⟨b, decide (i + 1 = l.length)⟩] := by
  rw [List.take_add_one, getElem?_bufferBeats, h]
  rfl

@[simp] theorem beatsOf_zero (frame : List Byte) : beatsOf frame 0 = [] := rfl

/-- The beats of one more buffer. -/
theorem beatsOf_succ {frame : List Byte} {k : Nat} (hk : k < nchunks 4096 frame.length) :
    beatsOf frame (k + 1) = beatsOf frame k ++ bufferBeats (chunkBuf 4096 frame k) := by
  have hget : (chunkSeq 4096 frame)[k]? = some (chunkBuf 4096 frame k) := by simp [chunkSeq, hk]
  simp [beatsOf, List.take_add_one, hget]

/-- The beats of all buffers. -/
theorem beatsOf_nchunks (frame : List Byte) :
    beatsOf frame (nchunks 4096 frame.length) = (chunkSeq 4096 frame).flatMap bufferBeats := by
  rw [beatsOf, hw_chunkSize, List.take_of_length_le (length_chunkSeq 4096 frame).le]

/-! ## What has been received, after each move (R201 to R206) -/

/-- `StreamSoFar` speaks of `PHASE`, `K`, `POS`, the frame and the beats received. -/
theorem StreamSoFar.congr {before : List Beat} {s t : State} (h : StreamSoFar before s) (hphase : t.phase = s.phase)
    (hk : t.k = s.k) (hpos : t.pos = s.pos) (hreceived : t.received = s.received)
    (hframe : frameOperand t = frameOperand s) : StreamSoFar before t := by
  rw [StreamSoFar, hphase, hk, hpos, hreceived, hframe]
  exact h

/-- An emission starts with nothing of it received (R197). -/
theorem streamSoFar_emitStart (s : State) : StreamSoFar s.received (emitStart s) :=
  ⟨fun _ => by simp, nofun⟩

/-- After an accepted byte (R201, R202). -/
theorem streamSoFar_beat {before : List Beat} {s : State} (h : StreamSoFar before s) (hinv : Inv s)
    (hw : FrameWritten s) (hemit : s.phase = .emit) : StreamSoFar before (beat s) := by
  have hsend : Sending s := .inl hemit
  have hframe : frameOperand (beat s) = frameOperand s :=
    (frameOperand_congr (beat_frame s).2.2 (beat_frame s).2.1).2 hw
  have hbyte : (chunkBuf 4096 (frameOperand s) s.k)[s.pos]? = some (txData s) :=
    getElem?_chunkBuf (hinv.crc_eq hsend hw) (hinv.pos_lt hemit)
  have hbeat := take_succ_bufferBeats hbyte
  have hreceived := h.1 hemit
  rw [hw_chunkSize] at hreceived
  rw [← bufLenAt_eq] at hbeat
  rw [StreamSoFar, hframe]
  obtain hlt | heq := hinv.pos_cases hemit
  · rw [beat_of_lt hlt]
    refine ⟨fun _ => ?_, fun hresp => by cases hemit.symm.trans hresp⟩
    simp [hbeat, hreceived, hlt.ne]
  · rw [beat_of_eq heq]
    refine ⟨nofun, fun _ => ?_⟩
    have hwhole : (bufferBeats (chunkBuf 4096 (frameOperand s) s.k)).take (s.pos + 1)
        = bufferBeats (chunkBuf 4096 (frameOperand s) s.k) := by
      rw [List.take_of_length_le]
      rw [length_bufferBeats, ← bufLenAt_eq, heq]
    have hk : s.k < nchunks 4096 (frameOperand s).length := by
      rw [length_frameOperand]
      exact (hinv.sendingFacts hsend).k_lt
    change s.received ++ [⟨txData s, true⟩] = before ++ beatsOf (frameOperand s) (s.k + 1)
    rw [beatsOf_succ hk, ← hwhole, hbeat, hreceived, decide_eq_true heq, List.append_assoc, List.append_assoc]

/-- The two ends of an emission that has sent the frame of `s` from buffer 0 on (R203, R204, R206). -/
def StreamEnds (before : List Beat) (s t : State) : Prop :=
  (t.status.done = true ∧ t.nchunk.toNat = nchunks Config.hw.chunkSize s.flen.toNat ∧
    t.received = before ++ (chunkSeq Config.hw.chunkSize (frameOperand s)).flatMap bufferBeats) ∨
  (t.status.err = true ∧ t.status.errCode = 2 ∧ t.errInfo = BitVec.ofNat 32 s.k ∧
    t.received = before ++ beatsOf (frameOperand s) (s.k + 1))

/-- After the answer `OK` with a buffer left (R203). -/
theorem streamSoFar_answerOk {before : List Beat} {s : State} (h : StreamSoFar before s) (hw : FrameWritten s)
    (hresp : s.phase = .resp) (hlt : s.k + 1 < nchunks 4096 s.flen.toNat) : StreamSoFar before (answerOk s) := by
  have hframe : frameOperand (answerOk s) = frameOperand s :=
    (frameOperand_congr (answerOk_frame s).2.2 (answerOk_frame s).2.1).2 hw
  rw [StreamSoFar, hframe, answerOk_of_lt hlt]
  exact ⟨fun _ => by simpa using h.2 hresp, nofun⟩

/-- After the answer `OK` to the last buffer (R203). -/
theorem streamEnds_answerOk {before : List Beat} {s : State} (h : StreamSoFar before s) (hfacts : SendingFacts s)
    (hresp : s.phase = .resp) (hle : nchunks 4096 s.flen.toNat ≤ s.k + 1) : StreamEnds before s (answerOk s) := by
  have hlast : s.k + 1 = nchunks 4096 s.flen.toNat := Nat.le_antisymm (Nat.succ_le_of_lt hfacts.k_lt) hle
  rw [answerOk_of_le hle]
  refine .inl ⟨rfl, hfacts.toNat_nchunk_succ.trans hlast, (h.2 hresp).trans ?_⟩
  rw [hlast, ← length_frameOperand, beatsOf_nchunks, hw_chunkSize]

/-- After the answer `FAIL` (R204). -/
theorem streamEnds_answerFail {before : List Beat} {s : State} (h : StreamSoFar before s) (hresp : s.phase = .resp) :
    StreamEnds before s (answerFail s) :=
  .inr ⟨rfl, rfl, rfl, h.2 hresp⟩

/-- A move of a sending block but reset: the right part goes on to be received, or the emission ends with it (R206). -/
theorem MoveEffect.stream {before : List Beat} {e : Event} {s t : State} (h : MoveEffect s e t) (hinv : Inv s)
    (hw : FrameWritten s) (hsend : Sending s) (hstream : StreamSoFar before s) (hne : e ≠ .reset) :
    Sending t ∧ StreamSoFar before t ∨ ¬ Sending t ∧ StreamEnds before s t := by
  have hbusy := (hinv.runningFlags (phase_ne_idle_of_sending hsend)).busy
  cases h with
  | read =>
    refine .inl ⟨hsend, hstream.congr rfl rfl rfl rfl ?_⟩
    exact (frameOperand_congr (s := s) (t := tick { s with reads := _ }) rfl rfl).2 hw
  | dropped => exact .inl ⟨hsend, hstream⟩
  | command hidle => cases hbusy.symm.trans hidle
  | illegal _ hidle => cases hbusy.symm.trans hidle
  | write _ _ _ hidle => cases hbusy.symm.trans hidle
  | sequencerWaits => exact .inl ⟨hsend, hstream⟩
  | compute hexec => exact absurd hsend (not_sending_of_exec hexec)
  | transportWaits => exact .inl ⟨hsend, hstream⟩
  | beat _ _ hemit =>
    refine .inl ⟨?_, streamSoFar_beat hstream hinv hw hemit⟩
    obtain hlt | heq := hinv.pos_cases hemit
    · exact beat_of_lt hlt ▸ .inl hemit
    · exact beat_of_eq heq ▸ .inr rfl
  | answerOk _ hresp =>
    obtain hlt | hle := Nat.lt_or_ge (s.k + 1) (nchunks 4096 s.flen.toNat)
    · exact .inl ⟨answerOk_of_lt hlt ▸ .inl rfl, streamSoFar_answerOk hstream hw hresp hlt⟩
    · exact .inr ⟨answerOk_of_le hle ▸ not_sending_of_idle rfl,
        streamEnds_answerOk hstream (hinv.sendingFacts hsend) hresp hle⟩
  | answerFail _ hresp => exact .inr ⟨not_sending_of_idle rfl, streamEnds_answerFail hstream hresp⟩
  | reset => exact absurd rfl hne

/-- While the block sends, no move but reset writes the frame (R35 (f)). -/
theorem MoveEffect.frame_eq {e : Event} {s t : State} (h : MoveEffect s e t) (hinv : Inv s) (hsend : Sending s)
    (hw : FrameWritten s) (hne : e ≠ .reset) : FrameWritten t ∧ frameOperand t = frameOperand s := by
  have hbusy := (hinv.runningFlags (phase_ne_idle_of_sending hsend)).busy
  obtain ⟨-, ⟨hfb, hflen⟩ | ⟨hexec, -⟩⟩ := h.busy_frame hbusy hne
  · obtain ⟨hiff, heq⟩ := frameOperand_congr hflen hfb
    exact ⟨hiff.2 hw, heq hw⟩
  · exact absurd hsend (not_sending_of_exec hexec)

/-- A command that leaves `EXEC` sending has started an emission (R196, R229). -/
theorem CommandEffect.streamSoFar_of_sending {i : Instr} {s t : State} (h : CommandEffect s i t)
    (hexec : s.phase = .exec) (hsend : Sending t) : StreamSoFar s.received t := by
  have hnot := not_sending_of_exec hexec
  cases h with
  | nop => exact absurd hsend hnot
  | clear => exact absurd hsend hnot
  | accept => exact absurd hsend (not_sending_of_exec rfl)
  | compute _ hout =>
    cases hout with
    | chunk => exact streamSoFar_emitStart _
    | encode => exact streamSoFar_emitStart _
    | _ => exact absurd hsend (not_sending_of_idle rfl)
  | wait => exact absurd hsend hnot

/-- Settles O34: the start by `streamSoFar_emitStart`, every later move by `MoveEffect.stream`. -/
theorem streamIsTheChunkSequence : Obligations.StreamIsTheChunkSequence := by
  constructor
  · exact fun i s t hexec h hsend => (commandEffect_of_exec h).streamSoFar_of_sending hexec hsend
  · intro before s t hinv hw hsend hstream hne h
    have heff := moveEffect_of_step h
    have hinv' := inv_takeMove hinv
    have hne' := nextEvent_ne_reset hne
    obtain ⟨hwt, hframe⟩ := heff.frame_eq hinv' hsend hw hne'
    obtain ⟨ht, hso⟩ | ⟨ht, hends⟩ := heff.stream hinv' hw hsend hstream hne'
    · exact ⟨hwt, hframe, fun _ => hso, fun hn => absurd ht hn⟩
    · exact ⟨hwt, hframe, fun hs => absurd hs ht, fun _ => hends⟩

end Sys2Proof.Machine
end

section
/-! The run of a transport that accepts every byte and answers every buffer `OK` (44_chunk_splitter.md R205, R206, R224;
45_host_commands.md R231). -/

namespace Sys2Proof.Machine

/-- The block sends `frame` and meets the invariants, and the transport, which held `before`, has received the right part. -/
structure Emission (before : List Beat) (frame : List Byte) (s : State) : Prop where
  inv : Inv s
  written : FrameWritten s
  frame_eq : frameOperand s = frame
  stream : StreamSoFar before s

theorem Emission.flen_eq {before : List Beat} {frame : List Byte} {s : State} (h : Emission before frame s) :
    s.flen.toNat = frame.length := by
  rw [← h.frame_eq, length_frameOperand]

/-- An emission speaks of the block, not of the moves to come. -/
theorem Emission.with_agenda {before : List Beat} {frame : List Byte} {s : State} (h : Emission before frame s)
    (moves : List Event) : Emission before frame { s with agenda := moves } where
  inv := inv_congr (s := s) rfl rfl rfl rfl rfl rfl rfl rfl rfl rfl rfl rfl rfl h.inv
  written := h.written
  frame_eq := h.frame_eq
  stream := h.stream

/-- An emission at its first byte. -/
theorem emission_of_start {s : State} (hinv : Inv s) (hw : FrameWritten s) (hemit : s.phase = .emit) (hk : s.k = 0)
    (hpos : s.pos = 0) : Emission s.received (frameOperand s) s where
  inv := hinv
  written := hw
  frame_eq := rfl
  stream := ⟨fun _ => by simp [hk, hpos], fun hresp => by cases hemit.symm.trans hresp⟩

/-- A move that leaves the block sending goes on with the emission. -/
theorem Emission.move {before : List Beat} {frame : List Byte} {e : Event} {s t : State} (h : Emission before frame s)
    (hmove : MoveEffect s e t) (hs : Sending s) (ht : Sending t) (hne : e ≠ .reset) : Emission before frame t := by
  obtain ⟨hinv, hw, hframe, hstream⟩ := h
  obtain ⟨hwt, hframet⟩ := hmove.frame_eq hinv hs hw hne
  obtain ⟨-, hso⟩ | ⟨hnot, -⟩ := hmove.stream hinv hw hs hstream hne
  · exact ⟨hmove.inv hinv, hwt, hframet.trans hframe, hso⟩
  · exact absurd ht hnot

/-! ## One buffer -/

/-- The step in which the transport accepts the byte on offer (R200). -/
theorem step_accept {s : State} {rest : List Event} (hemit : s.phase = .emit)
    (ha : s.agenda = .transport true false false :: rest) : step s = .next (beat { s with agenda := rest }) := by
  rw [step_cons ha]
  exact congrArg _ (transportStep_accept (s := { s with agenda := rest }) hemit false false)

/-- The step in which the transport answers `OK` (R200). -/
theorem step_answerOk {s : State} {rest : List Event} (hresp : s.phase = .resp)
    (ha : s.agenda = .transport false true true :: rest) : step s = .next (answerOk { s with agenda := rest }) := by
  rw [step_cons ha]
  exact congrArg _ (transportStep_ok (s := { s with agenda := rest }) hresp false)

/-- A byte before the buffer's final one is accepted: the emission goes on at the next byte (R201). -/
theorem Emission.accept_byte {before : List Beat} {frame : List Byte} {rest : List Event} {s : State}
    (h : Emission before frame s) (hemit : s.phase = .emit) (hlt : s.pos + 1 < bufLenAt s s.k)
    (ha : s.agenda = .transport true false false :: rest) :
    ∃ t : State, step s = .next t ∧ Emission before frame t ∧ t.phase = .emit ∧ t.pos = s.pos + 1 ∧ t.k = s.k ∧
      bufLenAt t t.k = bufLenAt s s.k ∧ t.agenda = rest := by
  have hmove : MoveEffect { s with agenda := rest } (.transport true false false) (beat { s with agenda := rest }) :=
    .beat false false hemit
  have hstep := step_accept hemit ha
  rw [beat_of_lt (s := { s with agenda := rest }) hlt] at hmove hstep
  exact ⟨_, hstep, (h.with_agenda rest).move hmove (.inl hemit) (.inl hemit) nofun, hemit, rfl, rfl, rfl, rfl⟩

/-- The buffer's final byte is accepted: the answer is awaited (R202). -/
theorem Emission.accept_final_byte {before : List Beat} {frame : List Byte} {rest : List Event} {s : State}
    (h : Emission before frame s) (hemit : s.phase = .emit) (heq : s.pos + 1 = bufLenAt s s.k)
    (ha : s.agenda = .transport true false false :: rest) :
    ∃ t : State, step s = .next t ∧ Emission before frame t ∧ t.phase = .resp ∧ t.k = s.k ∧ t.agenda = rest := by
  have hmove : MoveEffect { s with agenda := rest } (.transport true false false) (beat { s with agenda := rest }) :=
    .beat false false hemit
  have hstep := step_accept hemit ha
  rw [beat_of_eq (s := { s with agenda := rest }) heq] at hmove hstep
  exact ⟨_, hstep, (h.with_agenda rest).move hmove (.inl hemit) (.inr rfl) nofun, rfl, rfl, rfl⟩

/-- With every byte accepted, `n + 1` beats send the last `n + 1` bytes of a buffer. -/
theorem run_accept_bytes {before : List Beat} {frame : List Byte} {rest : List Event} (n : Nat) :
    ∀ s : State, Emission before frame s → s.phase = .emit → s.pos + (n + 1) = bufLenAt s s.k →
      s.agenda = List.replicate (n + 1) (.transport true false false) ++ rest →
      ∃ t : State, Host.Core.run Sys2Proof.core (n + 1) s = .next t ∧
        Emission before frame t ∧ t.phase = .resp ∧ t.k = s.k ∧ t.agenda = rest := by
  induction n with
  | zero =>
    intro s hem hemit hlen ha
    obtain ⟨t, hstep, ht⟩ := hem.accept_final_byte hemit hlen ha
    exact ⟨t, run_next_of_step _ 0 hstep, ht⟩
  | succ n ih =>
    intro s hem hemit hlen ha
    obtain ⟨u, hstep, hu, hemitu, hpos, hk, hbuf, hagenda⟩ := hem.accept_byte hemit (by omega) ha
    obtain ⟨t, hrun, ht, hresp, hkt, hrest⟩ := ih u hu hemitu (by omega) hagenda
    exact ⟨t, (run_next_of_step _ _ hstep).trans hrun, ht, hresp, hkt.trans hk, hrest⟩

/-- The ready transport's moves for buffer `k` of a frame of `len` bytes (R195, R205). -/
def chunkMoves (len k : Nat) : List Event :=
  readyForBuffer (hdrLen + min Config.hw.chunkSize (len - k * Config.hw.chunkSize))

theorem length_readyForBuffer (n : Nat) : (readyForBuffer n).length = n + 1 := by simp [readyForBuffer]

/-- The moves for the buffer an emission is at are those for a buffer of its length. -/
theorem Emission.chunkMoves_eq {before : List Beat} {frame : List Byte} {s : State} (h : Emission before frame s)
    (k : Nat) : chunkMoves frame.length k = readyForBuffer (bufLenAt s k) := by
  rw [← h.flen_eq]
  rfl

/-- A whole buffer is accepted and answered `OK`: the step of the answer is made in a block that waits for it. -/
theorem run_buffer {before : List Beat} {frame : List Byte} {rest : List Event} {s : State}
    (hem : Emission before frame s) (hemit : s.phase = .emit) (hpos : s.pos = 0)
    (ha : s.agenda = chunkMoves frame.length s.k ++ rest) :
    ∃ u : State, Host.Core.run Sys2Proof.core (chunkMoves frame.length s.k).length s = .next (answerOk u) ∧
      Emission before frame u ∧ u.phase = .resp ∧ u.k = s.k ∧ u.agenda = rest := by
  obtain ⟨n, hn⟩ := Nat.exists_eq_add_of_lt (zero_lt_bufLenAt s s.k)
  rw [Nat.zero_add] at hn
  rw [hem.chunkMoves_eq, hn] at ha ⊢
  rw [readyForBuffer, List.append_assoc] at ha
  obtain ⟨t, hrun, ht, hresp, hk, hagenda⟩ := run_accept_bytes n s hem hemit (by rw [hpos, Nat.zero_add, hn]) ha
  refine ⟨{ t with agenda := rest }, ?_, ht.with_agenda rest, hresp, hk, rfl⟩
  rw [length_readyForBuffer, run_add_of_run _ _ _ _ _ hrun]
  exact run_next_of_step _ 0 (step_answerOk hresp hagenda)

/-! ## All buffers -/

theorem readyForFrame_eq (len : Nat) :
    readyForFrame len = (List.range' 0 (nchunks 4096 len)).flatMap (chunkMoves len) := by
  rw [readyForFrame, hw_chunkSize, List.range_eq_range']
  rfl

/-- R224: a frame takes one move for each byte of its buffers and one for each answer. -/
theorem length_readyForFrame (s : List Byte) :
    (readyForFrame s.length).length = s.length + 16 * nchunks 4096 s.length + nchunks 4096 s.length := by
  have hbuffer (k : Nat) : (chunkMoves s.length k).length = (chunkBuf 4096 s k).length + 1 := by
    rw [chunkMoves, length_readyForBuffer, length_chunkBuf, length_slice, hw_chunkSize, hdrLen, Nat.add_comm 16]
  have hsum : ((List.range (nchunks 4096 s.length)).map fun k => (chunkBuf 4096 s k).length).sum =
      s.length + 16 * nchunks 4096 s.length := by
    rw [← length_flatten_chunkSeq (by decide), chunkSeq, List.length_flatten, List.map_map]
    rfl
  rw [readyForFrame_eq, ← List.range_eq_range', List.length_flatMap]
  simp only [hbuffer, List.sum_map_add, hsum]
  simp

/-- From the first byte of a buffer, with `m` buffers after it, the ready transport receives the rest of the frame: the run
ends with the answer to the last buffer. -/
theorem run_ready_chunks {before : List Beat} {frame : List Byte} {rest : List Event} (m : Nat) :
    ∀ (k : Nat) (s : State), Emission before frame s → s.phase = .emit → s.pos = 0 → s.k = k →
      k + m + 1 = nchunks 4096 frame.length →
      s.agenda = (List.range' k (m + 1)).flatMap (chunkMoves frame.length) ++ rest →
      ∃ u : State, Host.Core.run Sys2Proof.core ((List.range' k (m + 1)).flatMap (chunkMoves frame.length)).length s
          = .next (answerOk u) ∧
        Emission before frame u ∧ u.phase = .resp ∧ u.k + 1 = nchunks 4096 frame.length ∧ u.agenda = rest := by
  induction m with
  | zero =>
    rintro k s hem hemit hpos rfl hlast ha
    have hone : (List.range' s.k 1).flatMap (chunkMoves frame.length) = chunkMoves frame.length s.k := by simp
    rw [Nat.zero_add, hone] at ha ⊢
    obtain ⟨u, hrun, hu, hresp, hk, hagenda⟩ := run_buffer hem hemit hpos ha
    exact ⟨u, hrun, hu, hresp, hk ▸ hlast, hagenda⟩
  | succ m ih =>
    rintro k s hem hemit hpos rfl hlast ha
    rw [List.range'_succ, List.flatMap_cons, List.append_assoc] at ha
    rw [List.range'_succ, List.flatMap_cons, List.length_append]
    obtain ⟨u, hrun, hu, hresp, hk, hagenda⟩ := run_buffer hem hemit hpos ha
    have hmore : u.k + 1 < nchunks 4096 u.flen.toNat := by
      rw [hu.flen_eq, hk, ← hlast]
      omega
    have hnext : Emission before frame (answerOk u) :=
      hu.move (.answerOk false hresp) (.inr hresp) (answerOk_of_lt hmore ▸ .inl rfl) nofun
    rw [run_add_of_run _ _ _ _ _ hrun]
    rw [answerOk_of_lt hmore] at hnext ⊢
    exact ih (s.k + 1) _ hnext rfl rfl (congrArg (· + 1) hk) (by omega) hagenda

/-- The answer `OK` to the last buffer of an emission: it has all been received (R203, R206). -/
theorem Emission.delivered {before : List Beat} {frame : List Byte} {u : State} (h : Emission before frame u)
    (hresp : u.phase = .resp) (hlast : u.k + 1 = nchunks 4096 frame.length) :
    (answerOk u).agenda = u.agenda ∧ (answerOk u).phase = .idle ∧ (answerOk u).status.done = true ∧
    (answerOk u).status.err = false ∧ (answerOk u).nchunk.toNat = nchunks 4096 frame.length ∧
    (answerOk u).received = before ++ (chunkSeq 4096 frame).flatMap bufferBeats := by
  have hsend : Sending u := .inr hresp
  have herr := (h.inv.runningFlags (phase_ne_idle_of_sending hsend)).err
  have hcount := (h.inv.sendingFacts hsend).toNat_nchunk_succ
  have hreceived := h.stream.2 hresp
  rw [h.frame_eq, hlast, beatsOf_nchunks] at hreceived
  rw [answerOk_of_le (by rw [h.flen_eq, hlast])]
  exact ⟨rfl, rfl, rfl, herr, hcount.trans hlast, hreceived⟩

/-- Settles O35: `run_ready_chunks` from buffer 0, and what the last answer leaves. -/
theorem readyTransportReceivesTheFrame : Obligations.ReadyTransportReceivesTheFrame := by
  intro s rest hinv hw hemit hk hpos ha
  obtain ⟨m, hm⟩ := Nat.exists_eq_add_of_lt (nchunks_pos (c := 4096) (by decide) (frameOperand s).length)
  rw [← length_frameOperand] at ha ⊢
  rw [← length_readyForFrame]
  rw [readyForFrame_eq] at ha ⊢
  have hcount : m + 1 = nchunks 4096 (frameOperand s).length := by omega
  rw [← hcount] at ha
  obtain ⟨u, hrun, hu, hresp, hlast, hagenda⟩ :=
    run_ready_chunks m 0 s (emission_of_start hinv hw hemit hk hpos) hemit hpos hk (by omega) ha
  obtain ⟨hrest, hend⟩ := hu.delivered hresp hlast
  refine ⟨answerOk u, ?_, hrest.trans hagenda, hend⟩
  rw [← hcount]
  exact hrun

/-! ## ENCODE (R231) -/

/-- ENCODE's computation within the capacity starts the emission of the frame it has stored (R229). -/
theorem encodeBody_starts {s : State} (hle : max s.len1.toNat s.len2.toNat ≤ 255) :
    FrameWritten (encodeBody s) ∧ frameOperand (encodeBody s) = composeFrame (max s.len1.toNat s.len2.toNat) s ∧
    (encodeBody s).phase = .emit ∧ (encodeBody s).k = 0 ∧ (encodeBody s).pos = 0 ∧
    (encodeBody s).agenda = s.agenda ∧ (encodeBody s).received = s.received := by
  have hfits : (composeFrame (max s.len1.toNat s.len2.toNat) s).length ≤ 5114 :=
    length_composeFrame_le (colCount_ok_iff.2 ⟨rfl, hle⟩)
  rw [encodeBody_of_le hle]
  generalize composeFrame _ s = f at hfits ⊢
  obtain ⟨hw, hframe⟩ := frameOperand_of_stored (f := f) (by omega) (s := s)
    (t := emitStart (tick { storeFrame f s with crc := crc32 f })) rfl rfl
  exact ⟨hw, hframe, rfl, rfl, rfl, rfl, rfl⟩

/-- The sequencer's turn of an accepted ENCODE is its computation (R222). -/
theorem sequencerStep_encode {s : State} (hexec : s.phase = .exec) (hop : s.op = .encode) :
    sequencerStep s = .next (encodeBody s) := by
  rw [sequencerStep_of_exec hexec, hop]
  exact exec_encode_of_exec hexec

/-- The frame is composed of the operands and the configuration, not of the moves to come (R156). -/
theorem composeFrame_with_agenda (n : Nat) (s : State) (moves : List Event) :
    composeFrame n { s with agenda := moves } = composeFrame n s := rfl

/-- Settles O36: the `EXEC` step stores `BUILDFRAME` of the operands and starts its emission, which the ready transport then
receives by O35. -/
theorem encodeSendsTheText : Obligations.EncodeSendsTheText := by
  intro s rest hinv hexec hop hle ha
  have hlen := length_composeFrame s (max s.len1.toNat s.len2.toNat)
  have hbuild := buildFrame_operands (colCount_ok_iff.2 ⟨rfl, hle⟩)
  have hstep := (step_cons ha).trans (sequencerStep_encode hexec hop)
  have hinvu := stepKeepsTheInvariants _ _ hinv hstep
  obtain ⟨hw, hframe, hemit, hk, hpos, hagenda, hstart⟩ :=
    encodeBody_starts (s := { s with agenda := readyForFrame (14 + max s.len1.toNat s.len2.toNat * 20) ++ rest }) hle
  rw [composeFrame_with_agenda] at hframe
  generalize encodeBody _ = u at hstep hinvu hw hframe hemit hk hpos hagenda hstart
  generalize composeFrame _ s = f at hlen hbuild hframe
  have hflen : u.flen.toNat = 14 + max s.len1.toNat s.len2.toNat * 20 := by
    rw [← length_frameOperand, hframe, hlen]
  rw [← hflen] at hagenda
  obtain ⟨t, hrun, hrest, hidle, hdone, -, -, hreceived⟩ :=
    readyTransportReceivesTheFrame u rest hinvu hw hemit hk hpos hagenda
  rw [hframe, hstart] at hreceived
  exact ⟨f, t, _, hbuild, (run_next_of_step _ _ hstep).trans hrun, hrest, hidle, hdone, hreceived⟩

end Sys2Proof.Machine
end

section
/-! ENCODE against BUILD followed by CHUNK (45_host_commands.md R232), and what the results of the commands depend on
(00_scope.md R19). -/

namespace Sys2Proof.Machine

/-! ## ENCODE is BUILD then CHUNK -/

/-- The frame BUILD has stored is the one the next CHUNK finds (R156, R195). -/
theorem chunkBody_after_store {f : List Byte} (hf : f.length ≤ 5114) (s : State) :
    chunkBody (accept .chunk (goodEnd (tick (storeFrame f s)))) =
      emitStart (tick { accept .chunk (goodEnd (tick (storeFrame f s))) with crc := crc32 f }) := by
  have hlen : (accept .chunk (goodEnd (tick (storeFrame f s)))).flen.toNat ≤ 5114 :=
    (toNat_storeFrame_flen hf s).trans_le hf
  obtain ⟨-, hframe⟩ := frameOperand_of_stored (f := f) (by omega) (s := s)
    (t := accept .chunk (goodEnd (tick (storeFrame f s)))) rfl rfl
  rw [chunkBody_of_le hlen, hframe]

/-- Settles O37: within the capacity both ways store the same frame, its checksum and the start of its emission; beyond it
both raise the same error. -/
theorem encodeIsBuildThenChunk : Obligations.EncodeIsBuildThenChunk := by
  intro s hidle
  refine ⟨accept .encode s, encodeBody (accept .encode s), accept .build s, buildBody (accept .build s),
    exec_idle .encode hidle, exec_encode_of_exec rfl, exec_idle .build hidle, exec_build_of_exec rfl, ?_⟩
  obtain hlt | hle := Nat.lt_or_ge 255 (max s.len1.toNat s.len2.toNat)
  · rw [encodeBody_of_lt (s := accept .encode s) hlt, buildBody_of_lt (s := accept .build s) hlt]
    exact ⟨fun _ => rfl, nofun⟩
  · have hfits : (composeFrame (max s.len1.toNat s.len2.toNat) s).length ≤ 5114 :=
      length_composeFrame_le (colCount_ok_iff.2 ⟨rfl, hle⟩)
    have hencode : encodeBody (accept .encode s) = emitStart (tick
        { storeFrame (composeFrame (max s.len1.toNat s.len2.toNat) s) (accept .encode s) with
          crc := crc32 (composeFrame (max s.len1.toNat s.len2.toNat) s) }) :=
      encodeBody_of_le (s := accept .encode s) hle
    have hbuild : buildBody (accept .build s) =
        goodEnd (tick (storeFrame (composeFrame (max s.len1.toNat s.len2.toNat) s) (accept .build s))) :=
      buildBody_of_le (s := accept .build s) hle
    generalize composeFrame _ s = f at hfits hencode hbuild
    rw [hencode, hbuild]
    refine ⟨nofun, fun _ => ⟨_, _, exec_idle .chunk rfl, exec_chunk_of_exec rfl, ?_⟩⟩
    rw [chunkBody_after_store hfits]
    rfl

/-! ## Results depend on the operands only -/

/-- A written cell is read without a draw (R39). -/
theorem lineCode_eq_of_read {buf buf' : List (Nat × Code)} {i : Nat} (hw : (Memory.read buf i).isSome = true)
    (h : Memory.read buf i = Memory.read buf' i) (line draws draws' : Nat) :
    lineCode line buf draws i = lineCode line buf' draws' i := by
  obtain ⟨x, hx⟩ := Option.isSome_iff_exists.1 hw
  rw [lineCode_of_read hx, lineCode_of_read (h.symm.trans hx)]

/-- The written cells of `FB` below `FLEN` make the frame (R29, R39). -/
theorem frameOperand_eq_of_read {s s' : State} (hflen : s.flen = s'.flen) (hw : FrameWritten s)
    (hread : ∀ j, j < s.flen.toNat → Memory.read s.fb j = Memory.read s'.fb j) : frameOperand s = frameOperand s' := by
  rw [frameOperand, frameOperand, ← hflen]
  refine List.map_congr_left fun j hj => ?_
  have hj := List.mem_range.1 hj
  obtain ⟨x, hx⟩ := Option.isSome_iff_exists.1 (hw j hj)
  rw [fbByte_of_read hx, fbByte_of_read ((hread j hj).symm.trans hx)]

/-- The operands of BUILD and ENCODE are the same in both states, and written in the first (R91, R145). -/
structure SameText (s s' : State) : Prop where
  len1 : s.len1 = s'.len1
  len2 : s.len2 = s'.len2
  cfg0 : s.cfg0 = s'.cfg0
  cfgFg : s.cfgFg = s'.cfgFg
  cfgBg : s.cfgBg = s'.cfgBg
  written : LinesWritten s
  line1 : ∀ i, i < s.len1.toNat → Memory.read s.line1 i = Memory.read s'.line1 i
  line2 : ∀ i, i < s.len2.toNat → Memory.read s.line2 i = Memory.read s'.line2 i

/-- The frame composed is a function of the operands (R145, R156). -/
theorem SameText.composeFrame_eq {s s' : State} (h : SameText s s') (n : Nat) : composeFrame n s = composeFrame n s' := by
  have h1 : line1Operand s = line1Operand s' := by
    rw [line1Operand, line1Operand, ← h.len1]
    refine List.map_congr_left fun i hi => ?_
    have hi := List.mem_range.1 hi
    exact lineCode_eq_of_read (h.written.1 i hi) (h.line1 i hi) _ _ _
  have h2 : line2Operand s = line2Operand s' := by
    rw [line2Operand, line2Operand, ← h.len2]
    refine List.map_congr_left fun i hi => ?_
    have hi := List.mem_range.1 hi
    exact lineCode_eq_of_read (h.written.2 i hi) (h.line2 i hi) _ _ _
  rw [composeFrame, composeFrame, h.cfg0, h.cfgFg, h.cfgBg, h1, h2]

/-- The frame BUILD stores, within the capacity (R156). -/
theorem frameOperand_buildBody {s : State} (hle : max s.len1.toNat s.len2.toNat ≤ 255) :
    frameOperand (buildBody s) = composeFrame (max s.len1.toNat s.len2.toNat) s := by
  have hfits : (composeFrame (max s.len1.toNat s.len2.toNat) s).length ≤ 5114 :=
    length_composeFrame_le (colCount_ok_iff.2 ⟨rfl, hle⟩)
  rw [buildBody_of_le hle]
  exact (frameOperand_of_stored (by omega) (s := s) rfl rfl).2

/-- The frame ENCODE stores and its checksum, within the capacity (R229). -/
theorem encodeBody_results {s : State} (hle : max s.len1.toNat s.len2.toNat ≤ 255) :
    frameOperand (encodeBody s) = composeFrame (max s.len1.toNat s.len2.toNat) s ∧
    (encodeBody s).crc = crc32 (composeFrame (max s.len1.toNat s.len2.toNat) s) := by
  refine ⟨(encodeBody_starts hle).2.1, ?_⟩
  rw [encodeBody_of_le hle]
  rfl

/-- The checksum CRC stores (R176). -/
theorem crcBody_crc {s : State} (hle : s.flen.toNat ≤ 5114) : (crcBody s).crc = crc32 (frameOperand s) := by
  rw [crcBody_of_le hle]
  rfl

/-- The checksum CHUNK stores and the frame it leaves to send (R196). -/
theorem chunkBody_results {s : State} (hle : s.flen.toNat ≤ 5114) (hw : FrameWritten s) :
    (chunkBody s).crc = crc32 (frameOperand s) ∧ frameOperand (chunkBody s) = frameOperand s := by
  rw [chunkBody_of_le hle]
  exact ⟨rfl, (frameOperand_congr (s := s) (t := emitStart (tick { s with crc := _ })) rfl rfl).2 hw⟩

/-- `FLEN` is the length of the frame it delimits (R29). -/
theorem flen_eq_of_frameOperand_eq {t t' : State} (h : frameOperand t = frameOperand t') : t.flen = t'.flen := by
  refine BitVec.eq_of_toNat_eq ?_
  rw [← length_frameOperand, h, length_frameOperand]

/-- Settles O38: BUILD and ENCODE by `SameText.composeFrame_eq`, CRC and CHUNK by `frameOperand_eq_of_read`. -/
theorem resultsDependOnOperandsOnly : Obligations.ResultsDependOnOperandsOnly := by
  intro s s' t t' hexec hexec'
  constructor
  · intro hlen1 hlen2 hcfg0 hfg hbg hw hline1 hline2 hle
    have htext : SameText s s' := ⟨hlen1, hlen2, hcfg0, hfg, hbg, hw, hline1, hline2⟩
    have hle' : max s'.len1.toNat s'.len2.toNat ≤ 255 := hlen1 ▸ hlen2 ▸ hle
    have hcompose : composeFrame (max s.len1.toNat s.len2.toNat) s =
        composeFrame (max s'.len1.toNat s'.len2.toNat) s' := by
      rw [htext.composeFrame_eq, hlen1, hlen2]
    constructor
    · intro h h'
      cases (exec_build_of_exec hexec).symm.trans h
      cases (exec_build_of_exec hexec').symm.trans h'
      have hframe : frameOperand (buildBody s) = frameOperand (buildBody s') :=
        (frameOperand_buildBody hle).trans (hcompose.trans (frameOperand_buildBody hle').symm)
      exact ⟨flen_eq_of_frameOperand_eq hframe, hframe⟩
    · intro h h'
      cases (exec_encode_of_exec hexec).symm.trans h
      cases (exec_encode_of_exec hexec').symm.trans h'
      obtain ⟨hf, hc⟩ := encodeBody_results hle
      obtain ⟨hf', hc'⟩ := encodeBody_results hle'
      have hframe := hf.trans (hcompose.trans hf'.symm)
      exact ⟨flen_eq_of_frameOperand_eq hframe, hframe, hc.trans ((congrArg crc32 hcompose).trans hc'.symm)⟩
  · intro hflen hw hread hle
    have hle' : s'.flen.toNat ≤ 5114 := hflen ▸ hle
    have hframe := frameOperand_eq_of_read hflen hw hread
    have hcrc := congrArg crc32 hframe
    constructor
    · intro h h'
      cases (exec_crc_of_exec hexec).symm.trans h
      cases (exec_crc_of_exec hexec').symm.trans h'
      exact (crcBody_crc hle).trans (hcrc.trans (crcBody_crc hle').symm)
    · intro h h'
      cases (exec_chunk_of_exec hexec).symm.trans h
      cases (exec_chunk_of_exec hexec').symm.trans h'
      have hw' : FrameWritten s' := fun j hj => by
        rw [← hflen] at hj
        exact hread j hj ▸ hw j hj
      obtain ⟨hc, hf⟩ := chunkBody_results hle hw
      obtain ⟨hc', hf'⟩ := chunkBody_results hle' hw'
      exact ⟨hc.trans (hcrc.trans hc'.symm), hf.trans (hframe.trans hf'.symm)⟩

end Sys2Proof.Machine
end
